-- ==== Sys2Proof/Word.lean ====
section
/-! DEFINITION. The widths of the block's values (00_scope.md rule R5): every value is an unsigned
bit vector, bit 0 the least significant (rules R7 and R8). -/

namespace Sys2Proof

/-- One event word: `EVENT_WORD_WIDTH` = 16 bits (00_scope.md rule R5, 30_encoding.md rule R71). -/
abbrev Word := BitVec 16

/-- One byte: `VALUE_WIDTH` = 8 bits, a received byte or CapturedValue (00_scope.md rule R5). -/
abbrev Byte := BitVec 8

/-- A slot number or listen address: `ADDR_REG_WIDTH` = `SLOT_CTR_WIDTH` = 16 bits (00_scope.md rule R5). -/
abbrev SlotNumber := BitVec 16

/-- The raw 10-bit switch snapshot `raw10`, active-low: `SW_WIDTH` = 10 bits (30_encoding.md rule R62). -/
abbrev Raw10 := BitVec 10

/-- Switch group A: `SW_A_WIDTH` = 4 lines (00_scope.md rule R5). -/
abbrev GroupA := BitVec 4

/-- Switch group B: `SW_B_WIDTH` = 6 lines (00_scope.md rule R5). -/
abbrev GroupB := BitVec 6

end Sys2Proof
end

