-- ==== Sys2Proof/Config.lean ====
section
/-! DEFINITION. The block's fixed parameters (00_scope.md rule R5). Rule R6 leaves none of them open,
so each is a named constant at the value this hardware takes; no free value is needed. -/

namespace Sys2Proof.Config

/-- `ADDR_MIN`, the lowest valid listen address (00_scope.md rule R5). -/
def addrMin : Nat := 1

/-- `ADDR_MAX`, the highest valid listen address (00_scope.md rule R5); 513 and above are invalid. -/
def addrMax : Nat := 512

/-- `ADDR_INVALID`, the listen address that stands for "invalid" (00_scope.md rule R5). -/
def addrInvalid : SlotNumber := 0

/-- `START_CODE`, the only start code accepted (00_scope.md rule R5, 41_frame_synchronizer.md rule R94). -/
def startCode : Byte := 0x00

/-- `CAPTURES_PER_FRAME`, the most captures one frame makes (00_scope.md rule R5, 41_frame_synchronizer.md rule R99). -/
def capturesPerFrame : Nat := 1

/-- SlotCounter after INIT (10_state.md rule R33, the spec's decision D7; notes/assumptions/2.md). -/
def slotCounterReset : SlotNumber := 0x0000

/-- CapturedValue after INIT (10_state.md rule R33, the spec's decision D6; notes/assumptions/2.md). -/
def capturedValueReset : Byte := 0x00

/-- DESIGN CHOICE, unsafe (notes/assumptions/1.md): the switch snapshot that `State.reset`'s INIT
sampled. Rule R33 makes ListeningAddress after INIT a function of the switches and fixes no
snapshot; this one is every switch open, which assembles to 0 and is "invalid". -/
def resetRaw10 : Raw10 := 0x3FF

/-- `LINE_RATE` in bit/s: the setting the external UART must have. No rule of the block depends on it
(00_scope.md rule R5, 70_reset_and_hazards.md rules R143 and R149). -/
def lineRate : Nat := 250000

/-- Data bits of the external UART's framing (00_scope.md rule R5); no rule of the block depends on it. -/
def lineDataBits : Nat := 8

/-- Stop bits of the external UART's framing (00_scope.md rule R5); no rule of the block depends on it. -/
def lineStopBits : Nat := 2

end Sys2Proof.Config
end

