-- ==== Sys2Proof/Syntax.lean ====
section
/-! DEFINITION. The operations of the block (one constructor per row of spec/opcode_table.json) and the
assembler's lines and programs over them (30_encoding.md rules R72 and R73). -/

namespace Sys2Proof

/-- One operation, one per input event (00_scope.md rule R10). Each operand's type has exactly the
width the event word gives it (30_encoding.md rules R66 to R68), so every term is well formed. -/
inductive Instr where
  /-- `RX.DAT d`: a received byte without framing error (41_frame_synchronizer.md rule R90). -/
  | rxDat (data : Byte)
  /-- `RX.BRK d`: a received byte with a framing error (41_frame_synchronizer.md rule R92). -/
  | rxBrk (data : Byte)
  /-- `SW r`: recompute the listen address from the switch snapshot (40_address_decoder.md rule R80). -/
  | sw (raw : Raw10)
  /-- `RD.VALUE`: read CapturedValue (42_value_accessors.md rule R110). -/
  | rdValue
  /-- `RD.VALID`: read IndicatorState (42_value_accessors.md rule R111). -/
  | rdValid
  /-- `INIT r`: reset and initialise from the switch snapshot (70_reset_and_hazards.md rule R140). -/
  | init (raw : Raw10)
deriving DecidableEq, Repr

/-- The operation's mnemonic as spec/opcode_table.json spells it (30_encoding.md rule R72). -/
def Instr.mnemonic : Instr → String
  | .rxDat _ => "RX.DAT"
  | .rxBrk _ => "RX.BRK"
  | .sw _ => "SW"
  | .rdValue => "RD.VALUE"
  | .rdValid => "RD.VALID"
  | .init _ => "INIT"

/-- The KIND code of the operation (30_encoding.md rule R65). -/
def Instr.kind : Instr → BitVec 3
  | .rxDat _ => 0b000
  | .rxBrk _ => 0b000
  | .sw _ => 0b001
  | .rdValue => 0b010
  | .rdValid => 0b011
  | .init _ => 0b100

/-- An RX operation: one received byte, with or without framing error. -/
def Instr.isRx : Instr → Bool
  | .rxDat _ => true
  | .rxBrk _ => true
  | .sw _ => false
  | .rdValue => false
  | .rdValid => false
  | .init _ => false

/-- The RX.BRK operation, the break. -/
def Instr.isBreak : Instr → Bool
  | .rxDat _ => false
  | .rxBrk _ => true
  | .sw _ => false
  | .rdValue => false
  | .rdValid => false
  | .init _ => false

/-- A read operation. -/
def Instr.isRead : Instr → Bool
  | .rxDat _ => false
  | .rxBrk _ => false
  | .sw _ => false
  | .rdValue => true
  | .rdValid => true
  | .init _ => false

/-- The INIT operation. -/
def Instr.isInit : Instr → Bool
  | .rxDat _ => false
  | .rxBrk _ => false
  | .sw _ => false
  | .rdValue => false
  | .rdValid => false
  | .init _ => true

/-- One assembler line: the operation syntax of 30_encoding.md rule R72 and the pseudo-instructions of
rule R73. An immediate is written as a number of any size, so its range is a check (`wellFormed`). -/
inductive AsmLine where
  /-- `RX.DAT d` -/
  | rxDat (d : Nat)
  /-- `RX.BRK d` -/
  | rxBrk (d : Nat)
  /-- `SW r`, with `r` the raw active-low snapshot -/
  | sw (r : Nat)
  /-- `RD.VALUE` -/
  | rdValue
  /-- `RD.VALID` -/
  | rdValid
  /-- `INIT r`, with `r` the raw active-low snapshot -/
  | init (r : Nat)
  /-- `SETADDR n`, with `n` the wanted assembled value -/
  | setAddr (n : Nat)
  /-- `INITADDR n`, with `n` the wanted assembled value -/
  | initAddr (n : Nat)
  /-- `BREAK` -/
  | brk
  /-- `START` -/
  | start
  /-- `SLOT d` -/
  | slot (d : Nat)
deriving DecidableEq, Repr

/-- An assembler program: lines in order, and the directive `.rep k … .endr` (30_encoding.md rule R73). -/
inductive AsmProgram where
  | empty
  | line (l : AsmLine)
  | seq (first second : AsmProgram)
  | rep (k : Nat) (body : AsmProgram)
deriving DecidableEq, Repr

end Sys2Proof
end

