-- ==== Sys2Proof/WellFormed.lean ====
section
/-! DEFINITION. Which assembler lines are legal: "An operand outside its range is an assembly error"
(30_encoding.md rule R72). An `Instr` needs no check of its own: its operands' types are exactly the
fields of the event word. -/

namespace Sys2Proof

/-- A byte operand `d` is in 0..255 (30_encoding.md rule R72). -/
def byteInRange (d : Nat) : Bool := decide (d ≤ 255)

/-- A switch operand, raw or assembled, is in 0..1023 (30_encoding.md rules R72 and R73). -/
def switchInRange (r : Nat) : Bool := decide (r ≤ 1023)

/-- The operand check of one line (30_encoding.md rules R72 and R73). -/
def AsmLine.wellFormed : AsmLine → Bool
  | .rxDat d => byteInRange d
  | .rxBrk d => byteInRange d
  | .sw r => switchInRange r
  | .rdValue => true
  | .rdValid => true
  | .init r => switchInRange r
  | .setAddr n => switchInRange n
  | .initAddr n => switchInRange n
  | .brk => true
  | .start => true
  | .slot d => byteInRange d

/-- A program is legal when each of its lines is, the lines inside a `.rep` included. -/
def AsmProgram.wellFormed : AsmProgram → Bool
  | .empty => true
  | .line l => l.wellFormed
  | .seq p q => p.wellFormed && q.wellFormed
  | .rep _ p => p.wellFormed

end Sys2Proof
end

