-- ==== Sys2Proof/Decode.lean ====
section
/-! DEFINITION. The 16-bit event word: its decoder, total on all 2^16 words (30_encoding.md rules R65 to
R71), its encoder, and the assembler (rules R72 and R73). -/

namespace Sys2Proof

/-- Why a word is reserved (30_encoding.md rule R69): each is refused, never given to a neighbour. -/
inductive Reserved where
  /-- KIND is 101, 110 or 111. -/
  | kind
  /-- KIND is RX and one of bits [12:9] is 1. -/
  | rxBits
  /-- KIND is SW or INIT and one of bits [12:10] is 1. -/
  | switchBits
  /-- KIND is RD.VALUE or RD.VALID and one of bits [12:0] is 1. -/
  | readBits
deriving DecidableEq, Repr

/-- `w[lo+len-1 : lo]`, the field of `len` bits whose lowest bit is `lo` (00_scope.md rule R7). -/
def wordField (w : Word) (lo len : Nat) : BitVec len := w.extractLsb' lo len

/-- `decode` of 30_encoding.md rule R70: the operation of an event word, or why it is reserved. -/
def decode (w : Word) : Except Reserved Instr :=
  if wordField w 13 3 = 0b000 then
    if wordField w 9 4 ≠ 0 then .error .rxBits
    else if wordField w 8 1 = 0 then .ok (.rxDat (wordField w 0 8))
    else .ok (.rxBrk (wordField w 0 8))
  else if wordField w 13 3 = 0b001 then
    if wordField w 10 3 ≠ 0 then .error .switchBits else .ok (.sw (wordField w 0 10))
  else if wordField w 13 3 = 0b010 then
    if wordField w 0 13 ≠ 0 then .error .readBits else .ok .rdValue
  else if wordField w 13 3 = 0b011 then
    if wordField w 0 13 ≠ 0 then .error .readBits else .ok .rdValid
  else if wordField w 13 3 = 0b100 then
    if wordField w 10 3 ≠ 0 then .error .switchBits else .ok (.init (wordField w 0 10))
  else .error .kind

/-- The event word of an operation, from the pattern strings of 30_encoding.md rules R66 to R68. -/
def encode : Instr → Word
  | .rxDat data => 0b00000000#8 ++ data
  | .rxBrk data => 0b00000001#8 ++ data
  | .sw raw => 0b001000#6 ++ raw
  | .rdValue => 0b0100000000000000#16
  | .rdValid => 0b0110000000000000#16
  | .init raw => 0b100000#6 ++ raw

/-- The event word whose bits are `w`, numbered as spec/opcode_table.json numbers them. One operation is
one 16-bit word (30_encoding.md rule R71); the bits above `nbits` are 0. -/
def tableWord (nbits w : Nat) : Word := BitVec.ofNat 16 (w % 2 ^ nbits)

/-- The operation this decoder reads from the table word `w` of `nbits` bits; none where it is reserved. -/
def decodeTableWord (nbits w : Nat) : Option Instr :=
  match decode (tableWord nbits w) with
  | .ok i => some i
  | .error _ => none

/-- The one operation a legal line stands for: 30_encoding.md rule R72, and rule R73's expansions with
`raw10 = 1023 - n` for a wanted assembled value `n` (rule R63). -/
def AsmLine.operation : AsmLine → Instr
  | .rxDat d => .rxDat (BitVec.ofNat 8 d)
  | .rxBrk d => .rxBrk (BitVec.ofNat 8 d)
  | .sw r => .sw (BitVec.ofNat 10 r)
  | .rdValue => .rdValue
  | .rdValid => .rdValid
  | .init r => .init (BitVec.ofNat 10 r)
  | .setAddr n => .sw (BitVec.ofNat 10 (1023 - n))
  | .initAddr n => .init (BitVec.ofNat 10 (1023 - n))
  | .brk => .rxBrk 0x00
  | .start => .rxDat 0x00
  | .slot d => .rxDat (BitVec.ofNat 8 d)

/-- One line's event word, or none for an assembly error (30_encoding.md rule R72). -/
def AsmLine.assemble (l : AsmLine) : Option Word :=
  if l.wellFormed then some (encode l.operation) else none

/-- A program's event words in order; none if any of its lines is an assembly error. `.rep k` gives the
enclosed lines `k` times (30_encoding.md rule R73). -/
def AsmProgram.assemble : AsmProgram → Option (List Word)
  | .empty => some []
  | .line l => l.assemble.map fun w => [w]
  | .seq p q => p.assemble.bind fun ws => q.assemble.map fun vs => ws ++ vs
  | .rep k p => p.assemble.map fun ws => (List.replicate k ws).flatten

end Sys2Proof
end

