-- ==== Sys2Proof/Machine/State.lean ====
section
/-! DEFINITION. The block's state: the five registers of 10_state.md rule R20, whether an INIT has been
performed since power-up (70_reset_and_hazards.md rule R142), what a run is observed by (rule R150),
and the inputs the environment still holds. The block has no memory, no program counter, no general
registers and no exception registers (10_state.md rules R21 and R22, 20_memory.md rule R40,
60_exceptions.md rules R120 and R124). -/

namespace Sys2Proof.Machine

/-- SignalState, exactly one of three values (10_state.md rule R26). The code 2'b11 is no state, and that
rule has a model use a three-constructor enum so that it cannot be written down. -/
inductive SignalState where
  /-- W, code 2'b00 -/
  | waitingForBreak
  /-- B, code 2'b01 -/
  | breakDetected
  /-- D, code 2'b10 -/
  | receivingData
deriving DecidableEq, Repr

/-- The result of one read operation (42_value_accessors.md rules R110 and R111). -/
inductive ReadResult where
  /-- RD.VALUE returned this byte. -/
  | value (v : Byte)
  /-- RD.VALID returned this bit, true = valid. -/
  | valid (v : Bool)
deriving DecidableEq, Repr

/-- The input ports as sampled at one rising edge of `clk` (30_encoding.md rule R60), and whether the
environment samples `value_out` and `addr_valid` at that edge (rule R65). -/
structure Edge where
  rst         : Bool
  rxValid     : Bool
  rxData      : Byte
  rxFerr      : Bool
  swAN        : GroupA
  swBN        : GroupB
  swChange    : Bool
  sampleValue : Bool
  sampleValid : Bool
deriving DecidableEq, Repr

/-- One item of input: an event word, which serialises one operation (30_encoding.md rule R65), or the
ports at one clock edge, which may carry several operations or none (60_exceptions.md rule R123). -/
inductive Input where
  | word (w : Word)
  | edge (e : Edge)
deriving DecidableEq, Repr

/-- The whole state. The first five fields are the block's registers (10_state.md rule R20); the other
four are the model's own (notes/assumptions/3.md, 4.md and 5.md). -/
structure State where
  /-- ListeningAddress, 16 bits (10_state.md rule R23). -/
  listeningAddress : SlotNumber
  /-- IndicatorState, 1 = valid (10_state.md rule R25). -/
  indicatorState   : Bool
  /-- SignalState (10_state.md rule R26). -/
  signalState      : SignalState
  /-- SlotCounter, 16 bits (10_state.md rule R27). -/
  slotCounter      : SlotNumber
  /-- CapturedValue, 8 bits (10_state.md rule R28). -/
  capturedValue    : Byte
  /-- An INIT has been performed since power-up (70_reset_and_hazards.md rule R142). -/
  initialised      : Bool
  /-- The results of the reads performed, oldest first (70_reset_and_hazards.md rule R150 (1)). -/
  readLog          : List ReadResult
  /-- The Capture(v) events emitted, oldest first (00_scope.md rule R9, 70_reset_and_hazards.md rule R150 (2)). -/
  captureLog       : List Byte
  /-- The inputs not yet presented, next first (60_exceptions.md rule R129: the environment's choice). -/
  inputs           : List Input
deriving DecidableEq, Repr

/-- The block has no fault: no operation can fail and nothing stops it (60_exceptions.md rule R120,
41_frame_synchronizer.md rule R98, 93_implementation_defined.md section 1). The type has no
constructor, so nothing raises one; this is the spec's own and safe. -/
inductive Fault where
deriving DecidableEq, Repr

/-- Why a step is refused. 60_exceptions.md rule R120 names the two refusals; neither comes from the hardware. -/
inductive Refusal where
  /-- An operation whose meaning is not written yet; raised only by an arm of `exec`. Safe. -/
  | notModelled (mnemonic : String)
  /-- Raised by `step` on a reserved event word, which has no meaning (30_encoding.md rule R69). Safe: the
  ports cannot produce one. -/
  | reservedWord (w : Word) (why : Reserved)
  /-- Raised by every operation but INIT before the first INIT, when every register's value is
  unspecified (70_reset_and_hazards.md rule R142). Safe: it errs toward unprovable. -/
  | beforeInit
deriving DecidableEq, Repr

/-- The block right after INIT (10_state.md rule R33), with the switch snapshot `Config.resetRaw10`
(notes/assumptions/1.md), nothing observed yet and no input waiting (notes/assumptions/3.md). The two
switch-dependent registers are written out here; a lemma shows they are what INIT computes. -/
def State.reset : State where
  listeningAddress := Config.addrInvalid
  indicatorState   := false
  signalState      := .waitingForBreak
  slotCounter      := Config.slotCounterReset
  capturedValue    := Config.capturedValueReset
  initialised      := true
  readLog          := []
  captureLog       := []
  inputs           := []

end Sys2Proof.Machine
end

