-- ==== Sys2Proof/Machine/Flags.lean ====
section
/-! DEFINITION. The block's only flag, IndicatorState (10_state.md rules R25 and R31). -/

namespace Sys2Proof.Machine

/-- IndicatorState for a new listen address: 1 iff it is not 0 (40_address_decoder.md rule R80). -/
def indicatorOf (address : SlotNumber) : Bool := address != Config.addrInvalid

end Sys2Proof.Machine
end

