-- ==== Sys2Proof/Machine/Operands.lean ====
section
/-! DEFINITION. The operands: the switch value and its validation, and the numeric code of SignalState. -/

namespace Sys2Proof.Machine

/-- `raw10 = {sw_b_n[5:0], sw_a_n[3:0]}` (30_encoding.md rule R62). -/
def rawSnapshot (swBN : GroupB) (swAN : GroupA) : Raw10 := swBN ++ swAN

/-- `zext_16(~raw10)`, the assembled active-high switch value (30_encoding.md rule R63). -/
def assembledValue (raw : Raw10) : SlotNumber := (~~~raw).setWidth 16

/-- `decode_addr` (40_address_decoder.md rule R81): 0 and 513 upward are normalised to 0, the rest kept. -/
def decodeAddr (v : SlotNumber) : SlotNumber :=
  if v = 0 ∨ Config.addrMax + 1 ≤ v.toNat then Config.addrInvalid else v

/-- The listen address a switch snapshot gives (40_address_decoder.md rule R80). -/
def addressOf (raw : Raw10) : SlotNumber := decodeAddr (assembledValue raw)

/-- The 2-bit code of a SignalState (10_state.md rule R26, decision D5); no port shows it. -/
def SignalState.code : SignalState → BitVec 2
  | .waitingForBreak => 0b00
  | .breakDetected => 0b01
  | .receivingData => 0b10

/-- The SignalState of a 2-bit code; 2'b11 is not a state (10_state.md rule R26). -/
def SignalState.ofCode (c : BitVec 2) : Option SignalState :=
  if c = 0b00 then some .waitingForBreak
  else if c = 0b01 then some .breakDetected
  else if c = 0b10 then some .receivingData
  else none

end Sys2Proof.Machine
end

