-- ==== Sys2Proof/Machine/Ops.lean ====
section
/-! DEFINITION. The named operations over the registers, the outputs, the observation logs and the inputs.
There is no exception entry or return to model: no operation saves state, changes mode or vectors
anywhere (60_exceptions.md rules R120, R124 and R125). -/

namespace Sys2Proof.Machine

/-- What an operation or a step answers. -/
abbrev Result := Host.Outcome State Fault Refusal

/-- Write ListeningAddress and IndicatorState as one update (20_memory.md rule R47, 40_address_decoder.md rule R80). -/
def State.setAddress (s : State) (a : SlotNumber) : State :=
  { s with listeningAddress := a, indicatorState := indicatorOf a }

/-- `SignalState <- q`. -/
def State.setSignal (s : State) (q : SignalState) : State := { s with signalState := q }

/-- `SlotCounter <- n`. -/
def State.setSlotCounter (s : State) (n : SlotNumber) : State := { s with slotCounter := n }

/-- `CapturedValue <- v` alone, as INIT writes it: no Capture event (70_reset_and_hazards.md rule R140). -/
def State.setCapturedValue (s : State) (v : Byte) : State := { s with capturedValue := v }

/-- `CapturedValue <- v; emit Capture(v)` (41_frame_synchronizer.md rule R96, 00_scope.md rule R9). -/
def State.capture (s : State) (v : Byte) : State :=
  { s with capturedValue := v, captureLog := s.captureLog ++ [v] }

/-- `return r` of a read operation: the result joins the run's observation (70_reset_and_hazards.md rule R150). -/
def State.returnRead (s : State) (r : ReadResult) : State := { s with readLog := s.readLog ++ [r] }

/-- From here on an INIT has been performed (70_reset_and_hazards.md rule R142). -/
def State.markInitialised (s : State) : State := { s with initialised := true }

/-- The input still to come becomes `is`. -/
def State.setInputs (s : State) (is : List Input) : State := { s with inputs := is }

/-- The output port `value_out` (30_encoding.md rule R64). -/
def State.valueOut (s : State) : Byte := s.capturedValue

/-- The output port `addr_valid` (30_encoding.md rule R64, 40_address_decoder.md rule R85). -/
def State.addrValid (s : State) : Bool := s.indicatorState

/-- An operation with effect `s'` on `s`: performed once an INIT has been, refused before that
(70_reset_and_hazards.md rule R142). -/
def afterInit (s s' : State) : Result :=
  if s.initialised then .next s' else .refused .beforeInit

/-- Go on with `k` from a next state; a fault or a refusal ends there. -/
def andThen (r : Result) (k : State → Result) : Result :=
  match r with
  | .next s => k s
  | .fault f => .fault f
  | .refused why => .refused why

/-- The next input and the state without it; none when no input is left. -/
def State.takeInput (s : State) : Option (Input × State) :=
  match s.inputs with
  | [] => none
  | inp :: rest => some (inp, s.setInputs rest)

/-- The state with one more input, presented before those already waiting. -/
def State.pushInput (s : State) (inp : Input) : State := s.setInputs (inp :: s.inputs)

/-- The state with a program of event words as its whole input (95_test_vectors.md section 3). -/
def State.withProgram (s : State) (ws : List Word) : State := s.setInputs (ws.map .word)

end Sys2Proof.Machine
end

