-- ==== Sys2Proof/Machine/AddressDecoder.lean ====
section
/-! DEFINITION. The address decoder and validity indicator: SW (40_address_decoder.md). -/

namespace Sys2Proof.Machine

/-- The recompute: ListeningAddress and IndicatorState from the switches, nothing else
(40_address_decoder.md rules R80 and R84). -/
def recomputeAddress (raw : Raw10) (s : State) : State := s.setAddress (addressOf raw)

/-- `SW raw` (40_address_decoder.md rule R80). -/
def execSw (raw : Raw10) (s : State) : Result := afterInit s (recomputeAddress raw s)

end Sys2Proof.Machine
end

