-- ==== Sys2Proof/Machine/FrameSynchronizer.lean ====
section
/-! DEFINITION. The frame synchronizer and value latch: RX.DAT and RX.BRK (41_frame_synchronizer.md). -/

namespace Sys2Proof.Machine

/-- A byte in BreakDetected is the start code: 0x00 locks (41_frame_synchronizer.md rule R94), any other
drops the frame (rule R95). -/
def acceptStartCode (data : Byte) (s : State) : State :=
  if data = Config.startCode then (s.setSignal .receivingData).setSlotCounter 0#16
  else s.setSignal .waitingForBreak

/-- A byte in ReceivingData, with `a` the address sampled for this operation: count the slot first, then
capture and stop tracking if it is the listened one (41_frame_synchronizer.md rule R96). The count is
modulo 2^16 (the spec's decision D12). -/
def countSlot (a : SlotNumber) (data : Byte) (s : State) : State :=
  if s.slotCounter + 1#16 = a then
    ((s.setSlotCounter (s.slotCounter + 1#16)).capture data).setSignal .waitingForBreak
  else s.setSlotCounter (s.slotCounter + 1#16)

/-- One received byte, the cases in the order of 41_frame_synchronizer.md rule R90: load-shedding
(rule R91), framing error (rule R92), then by SignalState (rules R93 to R96). -/
def receive (ferr : Bool) (data : Byte) (s : State) : State :=
  if s.listeningAddress = Config.addrInvalid then s
  else if ferr then s.setSignal .breakDetected
  else
    match s.signalState with
    | .waitingForBreak => s
    | .breakDetected => acceptStartCode data s
    | .receivingData => countSlot s.listeningAddress data s

/-- `RX.DAT data`: a byte without framing error (41_frame_synchronizer.md rule R90). -/
def execRxDat (data : Byte) (s : State) : Result := afterInit s (receive false data s)

/-- `RX.BRK data`: a byte with a framing error, its data ignored (41_frame_synchronizer.md rules R91 and R92). -/
def execRxBrk (data : Byte) (s : State) : Result := afterInit s (receive true data s)

end Sys2Proof.Machine
end

