-- ==== Sys2Proof/Machine/Initialise.lean ====
section
/-! DEFINITION. Reset: INIT (70_reset_and_hazards.md rule R140). -/

namespace Sys2Proof.Machine

/-- All five registers at their values after INIT (70_reset_and_hazards.md rule R140, 10_state.md rule R33). -/
def initialise (raw : Raw10) (s : State) : State :=
  ((((s.setAddress (addressOf raw)).setSignal .waitingForBreak).setSlotCounter
    Config.slotCounterReset).setCapturedValue Config.capturedValueReset).markInitialised

/-- `INIT raw`: performed in every state, before the first INIT and again at any time
(70_reset_and_hazards.md rules R140 and R142). -/
def execInit (raw : Raw10) (s : State) : Result := .next (initialise raw s)

end Sys2Proof.Machine
end

