-- ==== Sys2Proof/Machine/ValueAccessors.lean ====
section
/-! DEFINITION. The value accessors: RD.VALUE and RD.VALID (42_value_accessors.md). Neither writes a register
(rule R112); the result joins the run's observation. -/

namespace Sys2Proof.Machine

/-- `RD.VALUE` (42_value_accessors.md rule R110). -/
def execRdValue (s : State) : Result := afterInit s (s.returnRead (.value s.valueOut))

/-- `RD.VALID` (42_value_accessors.md rule R111). -/
def execRdValid (s : State) : Result := afterInit s (s.returnRead (.valid s.addrValid))

end Sys2Proof.Machine
end

