-- ==== Sys2Proof/Machine/Dispatch.lean ====
section
/-! DEFINITION. The meaning of each operation, one arm per constructor of Instr. -/

namespace Sys2Proof.Machine

def exec (i : Instr) (s : State) : Host.Outcome State Fault Refusal :=
  match i with
  | .rxDat data => Sys2Proof.Machine.execRxDat data s
  | .rxBrk data => Sys2Proof.Machine.execRxBrk data s
  | .sw raw => Sys2Proof.Machine.execSw raw s
  | .rdValue => Sys2Proof.Machine.execRdValue s
  | .rdValid => Sys2Proof.Machine.execRdValid s
  | .init raw => Sys2Proof.Machine.execInit raw s

end Sys2Proof.Machine
end

