-- ==== Sys2Proof/Machine/Ports.lean ====
section
/-! DEFINITION. The ports and the clock edge: which operations an edge carries and in which order they are
performed (30_encoding.md rules R60 to R64, 60_exceptions.md rule R123). -/

namespace Sys2Proof.Machine

/-- The switch snapshot on the ports at this edge (30_encoding.md rule R62). -/
def Edge.raw (e : Edge) : Raw10 := rawSnapshot e.swBN e.swAN

/-- The RX operation of the byte on the ports (30_encoding.md rules R61 and R66). -/
def Edge.rx (e : Edge) : Instr := if e.rxFerr then .rxBrk e.rxData else .rxDat e.rxData

/-- The reads the environment makes at this edge (30_encoding.md rule R65). RD.VALUE stands before
RD.VALID: DESIGN CHOICE, no rule orders the two (notes/assumptions/6.md). -/
def Edge.reads (e : Edge) : List Instr :=
  (if e.sampleValue then [.rdValue] else []) ++ (if e.sampleValid then [.rdValid] else [])

/-- The operations of one edge in the serial order of 60_exceptions.md rule R123: INIT alone if `rst = 1`,
every strobe of that cycle dropped (70_reset_and_hazards.md rule R141; for the reads,
notes/assumptions/7.md); else the reads, then RX, then SW. -/
def Edge.operations (e : Edge) : List Instr :=
  if e.rst then [.init e.raw]
  else e.reads ++ (if e.rxValid then [e.rx] else []) ++ (if e.swChange then [.sw e.raw] else [])

/-- A sequence of operations, each on the state the earlier ones left (20_memory.md rule R46). -/
def performAll : List Instr → State → Result
  | [], s => .next s
  | i :: is, s => andThen (exec i s) (performAll is)

/-- One item of input: the operation an event word decodes to, or a clock edge's operations. A reserved
word is refused at decode (30_encoding.md rule R69). -/
def performInput (inp : Input) (s : State) : Result :=
  match inp with
  | .word w =>
    match decode w with
    | .ok i => exec i s
    | .error why => .refused (.reservedWord w why)
  | .edge e => performAll e.operations s

end Sys2Proof.Machine
end

