-- ==== Sys2Proof/Machine/Step.lean ====
section
/-! DEFINITION. One step: the next input is taken and performed. -/

namespace Sys2Proof.Machine

/-- One step of the block. With no input left the cycle carries no strobe: "performs no operation and
changes no state" (00_scope.md rule R11). -/
def step (s : State) : Host.Outcome State Fault Refusal :=
  match s.takeInput with
  | none => .next s
  | some (inp, s') => performInput inp s'

/-- The state whose very next step performs the event word with bits `w` of `nbits` (notes/assumptions/3.md). -/
def State.withFetchWord (s : State) (nbits w : Nat) : State := s.pushInput (.word (tableWord nbits w))

end Sys2Proof.Machine
end

