-- ==== Sys2Proof/Safety.lean ====
section
/-! DEFINITION. The terms claims use: the invariants of 10_state.md rule R30, a run's observation
(70_reset_and_hazards.md rule R150), and when the next step is no refusal. -/

namespace Sys2Proof.Machine

/-- (I1) of 10_state.md rule R30: ListeningAddress is 0 or in 1..512. -/
def State.AddressLegal (s : State) : Prop :=
  s.listeningAddress = Config.addrInvalid ∨
    (Config.addrMin ≤ s.listeningAddress.toNat ∧ s.listeningAddress.toNat ≤ Config.addrMax)

/-- (I2) of 10_state.md rule R30: IndicatorState is 1 exactly when ListeningAddress is not 0. -/
def State.IndicatorAgrees (s : State) : Prop :=
  s.indicatorState = true ↔ s.listeningAddress ≠ Config.addrInvalid

/-- The invariant of 10_state.md rule R30. (I3) holds by the type of `signalState`. Before the first INIT
every register is unspecified (rule R33), so it binds nothing there. -/
def State.Inv (s : State) : Prop := s.initialised = true → s.AddressLegal ∧ s.IndicatorAgrees

/-- The five registers of 10_state.md rule R20. -/
structure Registers where
  listeningAddress : SlotNumber
  indicatorState   : Bool
  signalState      : SignalState
  slotCounter      : SlotNumber
  capturedValue    : Byte
deriving DecidableEq, Repr

/-- The five registers of a state (70_reset_and_hazards.md rule R150 (3)). -/
def State.registers (s : State) : Registers where
  listeningAddress := s.listeningAddress
  indicatorState   := s.indicatorState
  signalState      := s.signalState
  slotCounter      := s.slotCounter
  capturedValue    := s.capturedValue

/-- What a finished run is observed by (70_reset_and_hazards.md rule R150). -/
structure Observation where
  reads    : List ReadResult
  captures : List Byte
  final    : Registers
deriving DecidableEq, Repr

/-- The observation of a run that ended in `s` (70_reset_and_hazards.md rule R150). -/
def State.observation (s : State) : Observation where
  reads    := s.readLog
  captures := s.captureLog
  final    := s.registers

/-- The state of an outcome, if it is a next state. -/
def nextState? : Result → Option State
  | .next s => some s
  | .fault _ => none
  | .refused _ => none

/-- The refusal of an outcome, if it is one. -/
def refusal? : Result → Option Refusal
  | .next _ => none
  | .fault _ => none
  | .refused why => some why

/-- The next input can be performed (60_exceptions.md rule R120): it is no reserved word, and it carries no
operation but INIT while no INIT has been performed. -/
def State.Ready (s : State) : Prop :=
  match s.inputs with
  | [] => True
  | .word w :: _ => ∃ i, decode w = .ok i ∧ (s.initialised = true ∨ i.isInit = true)
  | .edge e :: _ =>
    s.initialised = true ∨ e.rst = true ∨
      (e.rxValid = false ∧ e.swChange = false ∧ e.sampleValue = false ∧ e.sampleValid = false)

/-- The bytes `ds` as RX.DAT operations, in line order. -/
def slots (ds : List Byte) : List Instr := ds.map .rxDat

/-- The bytes `ds` as RX.BRK operations, in line order. -/
def breaks (ds : List Byte) : List Instr := ds.map .rxBrk

/-- The edge `b` with every strobe deasserted; its data lines keep their values. -/
def Edge.quiet (b : Edge) : Edge :=
  { b with rst := false, rxValid := false, swChange := false, sampleValue := false, sampleValid := false }

/-- The port activity an operation's event word stands for (30_encoding.md rule R65, "port equivalent"),
every other line as on `b`. -/
def Edge.carrying (b : Edge) : Instr → Edge
  | .rxDat data => { b.quiet with rxValid := true, rxData := data, rxFerr := false }
  | .rxBrk data => { b.quiet with rxValid := true, rxData := data, rxFerr := true }
  | .sw raw => { b.quiet with swChange := true, swAN := raw.extractLsb' 0 4, swBN := raw.extractLsb' 4 6 }
  | .rdValue => { b.quiet with sampleValue := true }
  | .rdValid => { b.quiet with sampleValid := true }
  | .init raw => { b.quiet with rst := true, swAN := raw.extractLsb' 0 4, swBN := raw.extractLsb' 4 6 }

/-- Two states agree on all that a later capture depends on: every register but CapturedValue. -/
def SameFrameState (s t : State) : Prop :=
  s.listeningAddress = t.listeningAddress ∧ s.indicatorState = t.indicatorState ∧
    s.signalState = t.signalState ∧ s.slotCounter = t.slotCounter ∧ s.initialised = t.initialised

end Sys2Proof.Machine
end

