-- ==== Sys2Proof/Certificates/Slice0/Obligations.lean ====
section
/-! DEFINITION. The statements for the provers. Each docstring names the rule of spec/ it formalises, and the
model's own choice or the spec's own decision it rests on, if any. -/

open Sys2Proof Sys2Proof.Machine

/-! ## Encoding -/

/-- The decoder table of 95_test_vectors.md section 2.1, words written out there. The event word is the
spec's own serialisation (decision D3); the reasons' names are the model's (notes/assumptions/15.md). -/
def Obligations.DecodeReadsTheSpecsWords : Prop :=
  decode 0x0000 = .ok (.rxDat 0x00) ∧ decode 0x01FF = .ok (.rxBrk 0xFF) ∧
  decode 0x23FC = .ok (.sw 0x3FC) ∧ decode 0x4000 = .ok .rdValue ∧ decode 0x6000 = .ok .rdValid ∧
  decode 0x83FC = .ok (.init 0x3FC) ∧ decode 0x0200 = .error .rxBits ∧ decode 0x1000 = .error .rxBits ∧
  decode 0x2400 = .error .switchBits ∧ decode 0x8400 = .error .switchBits ∧
  decode 0x4001 = .error .readBits ∧ decode 0x7FFF = .error .readBits ∧
  decode 0xA000 = .error .kind ∧ decode 0xC000 = .error .kind ∧ decode 0xE000 = .error .kind ∧
  decode 0xFFFF = .error .kind

/-- Every operation, with every operand its event word admits, is read back from its own word
(30_encoding.md section 2, decision D3). -/
def Obligations.DecodeOfEncodeIsTheOperation : Prop :=
  ∀ i : Instr, decode (encode i) = .ok i

/-- A word that decodes to an operation is that operation's one word (30_encoding.md section 2, decision D3). -/
def Obligations.AcceptedWordIsItsOperationsWord : Prop :=
  ∀ (w : Word) (i : Instr), decode w = .ok i → w = encode i

/-- The reserved words, by arithmetic on the word's value: KIND is bits [15:13], and a set reserved bit of
a defined KIND (30_encoding.md sections 1 and 2, decisions D3 and D4). -/
def Obligations.ReservedWordsAreExactlyThese : Prop :=
  ∀ w : Word, (∃ why, decode w = .error why) ↔
    (5 ≤ w.toNat / 8192 ∨
     (w.toNat / 8192 = 0 ∧ w.toNat / 512 % 16 ≠ 0) ∨
     ((w.toNat / 8192 = 1 ∨ w.toNat / 8192 = 4) ∧ w.toNat / 1024 % 8 ≠ 0) ∨
     ((w.toNat / 8192 = 2 ∨ w.toNat / 8192 = 3) ∧ w.toNat % 8192 ≠ 0))

/-- SignalState's 2-bit codes: W = 00, B = 01, D = 10, each read back, and 2'b11 is not a state (10_state.md
section 3, decision D5). -/
def Obligations.SignalStateCodesRoundTrip : Prop :=
  SignalState.waitingForBreak.code = 0b00 ∧ SignalState.breakDetected.code = 0b01 ∧
  SignalState.receivingData.code = 0b10 ∧
  (∀ q : SignalState, SignalState.ofCode q.code = some q) ∧
  (∀ c : BitVec 2, SignalState.ofCode c = none ↔ c = 0b11) ∧ State.reset.signalState.code = 0b00

/-- The assembler's table: each line's word, and each operand's range, outside which the line is an assembly
error; a program is its lines' words in order, one bad line makes all of it an error, and every word of
a legal one decodes (30_encoding.md section 3, decision D19; the words are decision D3's). That a bad
line inside `.rep 0` is an error too is the model's choice (notes/assumptions/12.md). -/
def Obligations.LegalProgramsAssembleToOperations : Prop :=
  (∀ d, (AsmLine.rxDat d).assemble = if d ≤ 255 then some (0x0000#16 ||| BitVec.ofNat 16 d) else none) ∧
  (∀ d, (AsmLine.rxBrk d).assemble = if d ≤ 255 then some (0x0100#16 ||| BitVec.ofNat 16 d) else none) ∧
  (∀ r, (AsmLine.sw r).assemble = if r ≤ 1023 then some (0x2000#16 ||| BitVec.ofNat 16 r) else none) ∧
  AsmLine.rdValue.assemble = some 0x4000#16 ∧ AsmLine.rdValid.assemble = some 0x6000#16 ∧
  (∀ r, (AsmLine.init r).assemble = if r ≤ 1023 then some (0x8000#16 ||| BitVec.ofNat 16 r) else none) ∧
  (∀ d, 255 < d → (AsmLine.slot d).assemble = none) ∧
  (∀ n, 1023 < n → (AsmLine.setAddr n).assemble = none ∧ (AsmLine.initAddr n).assemble = none) ∧
  AsmProgram.empty.assemble = some [] ∧
  (∀ l w, AsmLine.assemble l = some w → (AsmProgram.line l).assemble = some [w]) ∧
  (∀ l, AsmLine.assemble l = none → (AsmProgram.line l).assemble = none) ∧
  (∀ p q ws vs, AsmProgram.assemble p = some ws → AsmProgram.assemble q = some vs →
    (AsmProgram.seq p q).assemble = some (ws ++ vs)) ∧
  (∀ p q, AsmProgram.assemble p = none ∨ AsmProgram.assemble q = none →
    (AsmProgram.seq p q).assemble = none) ∧
  (∀ k p, AsmProgram.assemble p = none → (AsmProgram.rep k p).assemble = none) ∧
  (∀ p : AsmProgram,
    (p.wellFormed = true → ∃ ws, p.assemble = some ws ∧ ∀ w ∈ ws, ∃ i, decode w = .ok i) ∧
    (p.wellFormed = false → p.assemble = none))

/-- The pseudo-instructions and `.rep` expand as the table of 30_encoding.md section 3 gives (decision D19). -/
def Obligations.PseudoInstructionsExpand : Prop :=
  (∀ n ≤ 1023, (AsmLine.setAddr n).assemble = (AsmLine.sw (1023 - n)).assemble ∧
    (AsmLine.initAddr n).assemble = (AsmLine.init (1023 - n)).assemble) ∧
  AsmLine.brk.assemble = some 0x0100 ∧ AsmLine.start.assemble = some 0x0000 ∧
  (∀ d, (AsmLine.slot d).assemble = (AsmLine.rxDat d).assemble) ∧
  (∀ k p ws, AsmProgram.assemble p = some ws →
    (AsmProgram.rep k p).assemble = some (List.replicate k ws).flatten)

/-! ## A step -/

/-- The step on an event word is the decoded operation, on the state whose input has moved past the word.
The input list is the model's own (notes/assumptions/3.md). -/
def Obligations.StepPerformsTheDecodedWord : Prop :=
  ∀ (s : State) (w : Word) (rest : List Input) (i : Instr),
    s.inputs = .word w :: rest → decode w = .ok i → step s = exec i { s with inputs := rest }

/-- A reserved word is refused at decode, by name (30_encoding.md section 2, decision D4; the names are the
model's, notes/assumptions/15.md). -/
def Obligations.StepRefusesAReservedWord : Prop :=
  ∀ (s : State) (w : Word) (rest : List Input) (why : Reserved),
    s.inputs = .word w :: rest → decode w = .error why → step s = .refused (.reservedWord w why)

/-- A cycle with no strobe asserted performs no operation and changes no register, before the first INIT
too, and so does a step with no input left (00_scope.md section 4, decision D1; notes/assumptions/3.md). -/
def Obligations.IdleCycleChangesNothing : Prop :=
  ∀ s : State,
    (s.inputs = [] → step s = .next s) ∧
    (∀ (e : Edge) (rest : List Input), s.inputs = .edge e :: rest → e.rst = false → e.rxValid = false →
      e.swChange = false → e.sampleValue = false → e.sampleValid = false →
      step s = .next { s with inputs := rest })

/-- An edge with `rst = 1` is INIT of the switches on the ports and nothing else, whatever strobes are
asserted (60_exceptions.md section 3 and 70_reset_and_hazards.md section 1, decision D9; that the reads
of that cycle are not performed is DEDUCED, notes/assumptions/7.md). -/
def Obligations.ResetEdgeIsInitAlone : Prop :=
  ∀ (s : State) (e : Edge) (rest : List Input), s.inputs = .edge e :: rest → e.rst = true →
    step s = exec (.init (e.swBN ++ e.swAN)) { s with inputs := rest }

/-- One edge with any strobes but `rst`: the reads return the values from before the edge, RX uses the
address from before the edge, and SW's address stands after it (60_exceptions.md section 3, decisions
D10 and D15). That RD.VALUE's result stands before RD.VALID's is the model's choice
(notes/assumptions/6.md). -/
def Obligations.EdgeReadsThenReceivesThenRecomputes : Prop :=
  ∀ (s : State) (e : Edge) (rest : List Input), s.initialised = true → s.inputs = .edge e :: rest →
    e.rst = false →
    ∃ t, step s = .next t ∧ t.initialised = true ∧ t.inputs = rest ∧
      t.readLog = s.readLog ++ (if e.sampleValue then [.value s.capturedValue] else []) ++
        (if e.sampleValid then [.valid s.indicatorState] else []) ∧
      (if e.swChange then
        ∃ u, exec (.sw (e.swBN ++ e.swAN)) s = .next u ∧
          t.listeningAddress = u.listeningAddress ∧ t.indicatorState = u.indicatorState
       else t.listeningAddress = s.listeningAddress ∧ t.indicatorState = s.indicatorState) ∧
      (if e.rxValid then
        ∃ r, exec (if e.rxFerr then .rxBrk e.rxData else .rxDat e.rxData) s = .next r ∧
          t.signalState = r.signalState ∧ t.slotCounter = r.slotCounter ∧
          t.capturedValue = r.capturedValue ∧ t.captureLog = r.captureLog
       else t.signalState = s.signalState ∧ t.slotCounter = s.slotCounter ∧
          t.capturedValue = s.capturedValue ∧ t.captureLog = s.captureLog)

/-- An event word and the port activity it stands for are the same step (30_encoding.md section 2, column
"port equivalent", decision D3). -/
def Obligations.WordAndItsPortActivityAgree : Prop :=
  ∀ (b : Edge) (i : Instr) (s : State) (rest : List Input),
    step { s with inputs := .edge (b.carrying i) :: rest } =
      step { s with inputs := .word (encode i) :: rest }

/-- The switch groups' places: group A gives bits [3:0] and group B bits [9:4] of the active-high value
(30_encoding.md section 1, decision D13). An SW edge with group values `a` and `b` makes the address
16 (63 - b) + (15 - a) where that is in 1..512, else 0. -/
def Obligations.SwitchGroupsFillTheirBits : Prop :=
  ∀ (s : State) (e : Edge) (rest : List Input), s.initialised = true → s.inputs = .edge e :: rest →
    e.rst = false → e.rxValid = false → e.sampleValue = false → e.sampleValid = false →
    e.swChange = true →
    (1 ≤ 16 * (63 - e.swBN.toNat) + (15 - e.swAN.toNat) ∧
        16 * (63 - e.swBN.toNat) + (15 - e.swAN.toNat) ≤ 512 →
      step s = .next { s with
        inputs := rest, indicatorState := true,
        listeningAddress := BitVec.ofNat 16 (16 * (63 - e.swBN.toNat) + (15 - e.swAN.toNat)) }) ∧
    (16 * (63 - e.swBN.toNat) + (15 - e.swAN.toNat) = 0 ∨
        513 ≤ 16 * (63 - e.swBN.toNat) + (15 - e.swAN.toNat) →
      step s = .next { s with inputs := rest, indicatorState := false, listeningAddress := 0 })

/-- The step answers a next state exactly when the next input is no reserved word and brings no operation
but INIT before the first INIT (60_exceptions.md section 1). That a step with no input left goes on is the
model's choice (notes/assumptions/3.md), and that an edge with no strobe before the first INIT goes on
too is the model's reading (notes/assumptions/5.md). -/
def Obligations.StepGoesOnExactlyWhenReady : Prop :=
  ∀ s : State, (∃ t, step s = .next t) ↔ s.Ready

/-- No step faults, and the only refusals are a reserved word and an operation before the first INIT
(60_exceptions.md section 1). -/
def Obligations.StepNeverFaultsAndRefusesTwoThings : Prop :=
  ∀ s : State, (∀ f, step s ≠ .fault f) ∧
    ∀ why, step s = .refused why →
      (∃ w rest r, s.inputs = .word w :: rest ∧ decode w = .error r ∧ why = .reservedWord w r) ∨
      (s.initialised = false ∧ why = .beforeInit)

/-! ## Reset -/

/-- Before the first INIT every other operation is refused (70_reset_and_hazards.md section 1, decision D16). -/
def Obligations.OnlyInitRunsBeforeTheFirstInit : Prop :=
  ∀ (i : Instr) (s : State), s.initialised = false → i.isInit = false → exec i s = .refused .beforeInit

/-- INIT in any state, a power-up state among them: the address and its validity from `v = 1023 - raw`,
SignalState W, and the zeros of SlotCounter and CapturedValue, which are the spec's decisions D7 and D6;
that INIT may be repeated is its decision D8 (70_reset_and_hazards.md section 1). That INIT leaves the
run's observation alone is the model's choice (notes/assumptions/4.md). -/
def Obligations.InitSetsEveryRegister : Prop :=
  ∀ (raw : Raw10) (s : State),
    (1 ≤ 1023 - raw.toNat ∧ 1023 - raw.toNat ≤ 512 →
      exec (.init raw) s = .next { s with
        listeningAddress := BitVec.ofNat 16 (1023 - raw.toNat), indicatorState := true,
        signalState := .waitingForBreak, slotCounter := 0x0000, capturedValue := 0x00,
        initialised := true }) ∧
    (1023 - raw.toNat = 0 ∨ 513 ≤ 1023 - raw.toNat →
      exec (.init raw) s = .next { s with
        listeningAddress := 0, indicatorState := false, signalState := .waitingForBreak,
        slotCounter := 0x0000, capturedValue := 0x00, initialised := true })

/-- `State.reset` is what INIT with every switch open leaves, from whatever was there before, but for the
read and capture lists and the input, which INIT keeps. That snapshot is the model's choice
(notes/assumptions/1.md), and so is that INIT keeps the lists (notes/assumptions/4.md) and the input
(notes/assumptions/3.md); the register values are 10_state.md section 8's. -/
def Obligations.ResetIsInitWithOpenSwitches : Prop :=
  ∀ s : State, exec (.init 0x3FF) s =
    .next { State.reset with readLog := s.readLog, captureLog := s.captureLog, inputs := s.inputs }

/-- Each INIT is a full reset: every sequence of operations after it completes, and two runs from any two
states, power-up states among them, then give the same registers, reads and captures, and from equal
histories the same observation (70_reset_and_hazards.md sections 1 and 4, decisions D8, D16 and D17).
That INIT keeps the read and capture lists is the model's choice (notes/assumptions/4.md). -/
def Obligations.RunAfterInitForgetsThePast : Prop :=
  ∀ (raw : Raw10) (is : List Instr) (s₁ s₂ : State),
    ∃ t₁ t₂ rs cs, performAll (.init raw :: is) s₁ = .next t₁ ∧ performAll (.init raw :: is) s₂ = .next t₂ ∧
      t₁.registers = t₂.registers ∧
      t₁.readLog = s₁.readLog ++ rs ∧ t₂.readLog = s₂.readLog ++ rs ∧
      t₁.captureLog = s₁.captureLog ++ cs ∧ t₂.captureLog = s₂.captureLog ++ cs ∧
      (s₁.readLog = s₂.readLog → s₁.captureLog = s₂.captureLog → t₁.observation = t₂.observation)

/-! ## Invariants -/

/-- The invariant of 10_state.md section 6 (derived there): once an INIT has been performed,
ListeningAddress is 0 or in 1..512 and IndicatorState is 1 exactly when it is not 0. Every step keeps it. -/
def Obligations.AddressAndIndicatorStayLegal : Prop :=
  ∀ s t : State, s.Inv → step s = .next t → t.Inv

/-- The invariant holds at reset (10_state.md sections 6 and 8; the reset snapshot is
notes/assumptions/1.md's). -/
def Obligations.AddressAndIndicatorLegalAtReset : Prop := State.reset.Inv

/-- `SlotCounter <= ListeningAddress` while in D is not an invariant: a run from reset leaves it
(10_state.md section 6). -/
def Obligations.SlotCounterMayPassTheAddress : Prop :=
  ∃ is t, performAll is State.reset = .next t ∧ t.signalState = .receivingData ∧
    t.listeningAddress ≠ 0 ∧ t.listeningAddress.toNat < t.slotCounter.toNat

/-- Once an INIT has been performed every operation completes, in every state and with every operand
(41_frame_synchronizer.md R98's "never stops", 60_exceptions.md section 1). -/
def Obligations.EveryOperationCompletesAfterInit : Prop :=
  ∀ (i : Instr) (s : State), s.initialised = true →
    ∃ t, exec i s = .next t ∧ t.initialised = true ∧ t.inputs = s.inputs

/-! ## The address decoder -/

/-- R80, R81: with `v = 1023 - raw` the assembled value, SW keeps a `v` in 1..512 as the address and makes it
valid, and normalises 0 and 513 upward to 0 and invalid. Nothing else changes. -/
def Obligations.SwSetsAddressAndIndicator : Prop :=
  ∀ (raw : Raw10) (s : State), s.initialised = true →
    (1 ≤ 1023 - raw.toNat ∧ 1023 - raw.toNat ≤ 512 →
      exec (.sw raw) s = .next { s with
        listeningAddress := BitVec.ofNat 16 (1023 - raw.toNat), indicatorState := true }) ∧
    (1023 - raw.toNat = 0 ∨ 513 ≤ 1023 - raw.toNat →
      exec (.sw raw) s = .next { s with listeningAddress := 0, indicatorState := false })

/-- R84: SW leaves the frame state, CapturedValue and all else but the address and the indicator alone,
and while the address is invalid no sequence of bytes and reads changes CapturedValue. -/
def Obligations.SwKeepsTheFrameState : Prop :=
  (∀ (raw : Raw10) (s t : State), exec (.sw raw) s = .next t →
    t.signalState = s.signalState ∧ t.slotCounter = s.slotCounter ∧ t.capturedValue = s.capturedValue ∧
    t.initialised = s.initialised ∧ t.readLog = s.readLog ∧ t.captureLog = s.captureLog ∧
    t.inputs = s.inputs) ∧
  (∀ (is : List Instr) (s t : State), s.listeningAddress = 0 →
    (∀ i ∈ is, i.isRx = true ∨ i.isRead = true) → performAll is s = .next t →
    t.capturedValue = s.capturedValue ∧ t.captureLog = s.captureLog)

/-- Only SW and INIT change `addr_valid` or the listen address (40_address_decoder.md rule R85's first
sentence, 10_state.md section 5). -/
def Obligations.AddrValidChangesOnlyAtSwOrInit : Prop :=
  ∀ (i : Instr) (s t : State), i.isRx = true ∨ i.isRead = true → exec i s = .next t →
    t.addrValid = s.addrValid ∧ t.listeningAddress = s.listeningAddress

/-- R45: SW is idempotent, reads have no side effect on any register, and RX is not idempotent: repeating
one can advance SlotCounter again or cause a capture. -/
def Obligations.SwAndReadsRepeatHarmlesslyRxDoesNot : Prop :=
  (∀ (raw : Raw10) (s t : State), exec (.sw raw) s = .next t → exec (.sw raw) t = .next t) ∧
  (∀ (i : Instr) (s t : State), i.isRead = true → exec i s = .next t →
    t.registers = s.registers ∧ t.captureLog = s.captureLog) ∧
  (∃ (d : Byte) (s t u : State), exec (.rxDat d) s = .next t ∧ exec (.rxDat d) t = .next u ∧
    t.slotCounter = s.slotCounter + 1 ∧ u.slotCounter = t.slotCounter + 1 ∧ u.captureLog = t.captureLog) ∧
  (∃ (d : Byte) (s t u : State), exec (.rxDat d) s = .next t ∧ exec (.rxDat d) t = .next u ∧
    t.captureLog = s.captureLog ∧ u.captureLog = t.captureLog ++ [d])

/-! ## The frame synchronizer -/

/-- R91: while the address is 0 a byte, with or without framing error and in every SignalState, changes
nothing, and so does any sequence of bytes. -/
def Obligations.InvalidAddressIgnoresEveryByte : Prop :=
  ∀ s : State, s.initialised = true → s.listeningAddress = 0 →
    (∀ d : Byte, exec (.rxDat d) s = .next s ∧ exec (.rxBrk d) s = .next s) ∧
    (∀ is : List Instr, (∀ i ∈ is, i.isRx = true) → performAll is s = .next s)

/-- R92: with a valid address a framing error moves to BreakDetected from every SignalState, whatever the
data byte, and changes nothing else. -/
def Obligations.BreakEntersBreakDetected : Prop :=
  ∀ (d : Byte) (s : State), s.initialised = true → s.listeningAddress ≠ 0 →
    exec (.rxBrk d) s = .next { s with signalState := .breakDetected }

/-- R93: with a valid address a byte without framing error is discarded in WaitingForBreak, 0x00 too. -/
def Obligations.BytesAreDiscardedWhileWaiting : Prop :=
  ∀ (d : Byte) (s : State), s.initialised = true → s.listeningAddress ≠ 0 →
    s.signalState = .waitingForBreak → exec (.rxDat d) s = .next s

/-- R94: in BreakDetected the byte 0x00 enters ReceivingData and zeroes SlotCounter, capturing nothing. -/
def Obligations.StartCodeLocksAndZeroesTheCount : Prop :=
  ∀ s : State, s.initialised = true → s.listeningAddress ≠ 0 → s.signalState = .breakDetected →
    exec (.rxDat 0x00) s = .next { s with signalState := .receivingData, slotCounter := 0x0000 }

/-- R95: in BreakDetected every other byte goes back to WaitingForBreak, and the bytes after it are dropped
until a break: nothing but SignalState has changed after any number of them. -/
def Obligations.OtherStartCodeDropsTheFrame : Prop :=
  ∀ (d : Byte) (es : List Byte) (s : State), s.initialised = true → s.listeningAddress ≠ 0 →
    s.signalState = .breakDetected → d ≠ 0x00 →
    exec (.rxDat d) s = .next { s with signalState := .waitingForBreak } ∧
    performAll (.rxDat d :: slots es) s = .next { s with signalState := .waitingForBreak }

/-- In ReceivingData the count is incremented first, modulo 2^16; if it then equals the address the byte is
captured and tracking stops, else only the count has changed (41_frame_synchronizer.md, the case of
RX.DAT in D). The modulus is the spec's own decision D12 (notes/assumptions/11.md). -/
def Obligations.SlotIsCountedThenCapturedIfListened : Prop :=
  ∀ (d : Byte) (s : State), s.initialised = true → s.listeningAddress ≠ 0 →
    s.signalState = .receivingData →
    ((s.slotCounter.toNat + 1) % 65536 = s.listeningAddress.toNat →
      exec (.rxDat d) s = .next { s with
        slotCounter := s.listeningAddress, capturedValue := d, signalState := .waitingForBreak,
        captureLog := s.captureLog ++ [d] }) ∧
    ((s.slotCounter.toNat + 1) % 65536 ≠ s.listeningAddress.toNat →
      exec (.rxDat d) s = .next { s with slotCounter := s.slotCounter + 1 })

/-- What an RX operation leaves alone: the address, the indicator, the reads and the input always, and
CapturedValue with its history unless the operation is the RX.DAT that counts the listened slot
(10_state.md section 5, 41_frame_synchronizer.md rule R96's condition). -/
def Obligations.ReceivingFrame : Prop :=
  ∀ (i : Instr) (s t : State), i.isRx = true → exec i s = .next t →
    t.listeningAddress = s.listeningAddress ∧ t.indicatorState = s.indicatorState ∧
    t.initialised = s.initialised ∧ t.readLog = s.readLog ∧ t.inputs = s.inputs ∧
    ((t.capturedValue = s.capturedValue ∧ t.captureLog = s.captureLog) ∨
      ∃ d, i = .rxDat d ∧ s.listeningAddress ≠ 0 ∧ s.signalState = .receivingData ∧
        s.slotCounter + 1 = s.listeningAddress)

/-- R97: any number of consecutive breaks is one break, the first byte after them is read as the start code,
and under an invalid address they are ignored like every byte. -/
def Obligations.LongBreakIsOneBreak : Prop :=
  ∀ (b : Byte) (bs : List Byte) (s : State), s.initialised = true →
    (s.listeningAddress ≠ 0 →
      performAll (breaks (b :: bs)) s = .next { s with signalState := .breakDetected } ∧
      performAll (breaks (b :: bs) ++ [.rxDat 0x00]) s =
        .next { s with signalState := .receivingData, slotCounter := 0x0000 } ∧
      ∀ d : Byte, d ≠ 0x00 → performAll (breaks (b :: bs) ++ [.rxDat d]) s =
        .next { s with signalState := .waitingForBreak }) ∧
    (s.listeningAddress = 0 → performAll (breaks (b :: bs)) s = .next s)

/-- The engine heals at the next break: from any state with a valid address, a break and a start code leave
ReceivingData with the count 0 (41_frame_synchronizer.md rule R98's last sentence, derived there). -/
def Obligations.BreakAndStartCodeHeal : Prop :=
  ∀ (b : Byte) (s : State), s.initialised = true → s.listeningAddress ≠ 0 →
    performAll [.rxBrk b, .rxDat 0x00] s =
      .next { s with signalState := .receivingData, slotCounter := 0x0000 }

/-- At most one capture between two breaks, whatever SW, read, INIT and RX.DAT operations come between and
whatever state the run of them starts in (41_frame_synchronizer.md rule R99's first sentence, derived there).
That the capture list goes on across an INIT is the model's choice (notes/assumptions/4.md). -/
def Obligations.AtMostOneCaptureWithoutABreak : Prop :=
  ∀ (is : List Instr) (s t : State), (∀ i ∈ is, i.isBreak = false) → performAll is s = .next t →
    ∃ cs, t.captureLog = s.captureLog ++ cs ∧ cs.length ≤ 1

/-- Frame isolation: from any state with a valid address A, a break, the start code, A - 1 bytes and the
byte `x` capture `x` and only `x`, at the A-th post-start byte, and no byte after it in the frame
changes anything (41_frame_synchronizer.md rule R100, derived there). -/
def Obligations.FrameCapturesTheListenedSlotOnce : Prop :=
  ∀ (b x : Byte) (before after : List Byte) (s : State), s.initialised = true →
    before.length + 1 = s.listeningAddress.toNat →
    performAll ([.rxBrk b, .rxDat 0x00] ++ slots before ++ [.rxDat x] ++ slots after) s =
      .next { s with
        signalState := .waitingForBreak, slotCounter := s.listeningAddress, capturedValue := x,
        captureLog := s.captureLog ++ [x] }

/-- R28: after an INIT and any operations but INIT, address changes among them, CapturedValue is the byte of
the most recent capture since, or the value INIT left if there was none; `value_out` shows it and
RD.VALUE returns it. -/
def Obligations.CapturedValueIsTheMostRecentCapture : Prop :=
  ∀ (raw : Raw10) (is : List Instr) (s r t : State), exec (.init raw) s = .next r →
    (∀ i ∈ is, i.isInit = false) → performAll is r = .next t →
    ∃ cs, t.captureLog = r.captureLog ++ cs ∧ t.capturedValue = cs.getLastD r.capturedValue ∧
      t.valueOut = cs.getLastD r.capturedValue ∧
      exec .rdValue t = .next { t with readLog := t.readLog ++ [.value (cs.getLastD r.capturedValue)] }

/-- What is captured later depends on no CapturedValue and no history: two runs of the same operations from
states that agree on the other registers capture the same bytes and keep agreeing (10_state.md section 5,
the column of reads). That the capture lists go on across an INIT is the model's choice
(notes/assumptions/4.md). -/
def Obligations.CapturesIgnoreTheCapturedValue : Prop :=
  ∀ (is : List Instr) (s t s' t' : State), SameFrameState s t →
    performAll is s = .next s' → performAll is t = .next t' →
    SameFrameState s' t' ∧
      ∃ cs, s'.captureLog = s.captureLog ++ cs ∧ t'.captureLog = t.captureLog ++ cs

/-! ## Hazards -/

/-- An SW in ReceivingData that sets an address above the count: the capture comes in the same frame, at the
slot of the new address (70_reset_and_hazards.md section 2, R144 (a), derived there). -/
def Obligations.RaisedAddressCapturesInThisFrame : Prop :=
  ∀ (raw : Raw10) (before : List Byte) (x : Byte) (s : State), s.initialised = true →
    s.signalState = .receivingData → 1023 - raw.toNat ≤ 512 →
    s.slotCounter.toNat + before.length + 1 = 1023 - raw.toNat →
    performAll (.sw raw :: slots before ++ [.rxDat x]) s =
      .next { s with
        listeningAddress := BitVec.ofNat 16 (1023 - raw.toNat), indicatorState := true,
        signalState := .waitingForBreak, slotCounter := BitVec.ofNat 16 (1023 - raw.toNat),
        capturedValue := x, captureLog := s.captureLog ++ [x] }

/-- An SW in ReceivingData that sets a valid address not above the count: nothing is captured, however long
the frame goes on, until the 16-bit count has wrapped and come to the new address
(70_reset_and_hazards.md section 2, R144 (b), derived there; the wrap is decision D12, the unlimited
frame decision D24). -/
def Obligations.LoweredAddressMissesThisFrame : Prop :=
  ∀ (raw : Raw10) (ds : List Byte) (s : State), s.initialised = true →
    s.signalState = .receivingData → 1 ≤ 1023 - raw.toNat → 1023 - raw.toNat ≤ 512 →
    1023 - raw.toNat ≤ s.slotCounter.toNat →
    s.slotCounter.toNat + ds.length < 65536 + (1023 - raw.toNat) →
    performAll (.sw raw :: slots ds) s =
      .next { s with
        listeningAddress := BitVec.ofNat 16 (1023 - raw.toNat), indicatorState := true,
        slotCounter := BitVec.ofNat 16 (s.slotCounter.toNat + ds.length) }

/-- After load-shedding the count goes on from where it was frozen: with an invalid address set in
ReceivingData, any bytes and breaks, then a valid address above the stale count, the capture comes at
that stale count's distance from it (70_reset_and_hazards.md section 2, R145, derived there). -/
def Obligations.ResumedFrameCountsFromTheStaleSlot : Prop :=
  ∀ (off on : Raw10) (ignored : List Instr) (before : List Byte) (x : Byte) (s : State),
    s.initialised = true → s.signalState = .receivingData →
    (1023 - off.toNat = 0 ∨ 513 ≤ 1023 - off.toNat) → (∀ i ∈ ignored, i.isRx = true) →
    1023 - on.toNat ≤ 512 → s.slotCounter.toNat + before.length + 1 = 1023 - on.toNat →
    performAll (.sw off :: ignored ++ [.sw on] ++ slots before ++ [.rxDat x]) s =
      .next { s with
        listeningAddress := BitVec.ofNat 16 (1023 - on.toNat), indicatorState := true,
        signalState := .waitingForBreak, slotCounter := BitVec.ofNat 16 (1023 - on.toNat),
        capturedValue := x, captureLog := s.captureLog ++ [x] }

/-- `value_out` cannot tell "no capture since INIT" from "captured 0x00": two runs from one INIT, neither with
a further INIT, show the same `value_out`, the first without a capture and the second after one of 0x00
(70_reset_and_hazards.md section 2, R146, derived there; that no capture reads as 0x00 is decision D6;
that INIT keeps the capture list, empty at reset, is the model's choice, notes/assumptions/4.md). -/
def Obligations.ValueOutCannotTellZeroFromNoCapture : Prop :=
  ∃ (raw : Raw10) (is js : List Instr) (t u : State),
    (∀ i ∈ is, i.isInit = false) ∧ (∀ i ∈ js, i.isInit = false) ∧
    performAll (.init raw :: is) State.reset = .next t ∧ performAll (.init raw :: js) State.reset = .next u ∧
    t.captureLog = [] ∧ u.captureLog = [0x00] ∧ t.valueOut = u.valueOut

/-! ## The value accessors -/

/-- R110: RD.VALUE returns CapturedValue and writes no register. The result joins the model's list of
results (notes/assumptions/4.md). -/
def Obligations.RdValueReturnsTheCapturedValue : Prop :=
  ∀ s : State, s.initialised = true →
    exec .rdValue s = .next { s with readLog := s.readLog ++ [.value s.capturedValue] }

/-- R111: RD.VALID returns IndicatorState, which in every state the invariant admits is whether the address
is not 0, and writes no register. The result joins the model's list of results
(notes/assumptions/4.md). -/
def Obligations.RdValidReturnsTheIndicator : Prop :=
  ∀ s : State, s.initialised = true →
    exec .rdValid s = .next { s with readLog := s.readLog ++ [.valid s.indicatorState] } ∧
    (s.Inv → exec .rdValid s =
      .next { s with readLog := s.readLog ++ [.valid (decide (s.listeningAddress ≠ 0))] })

/-- What a read leaves alone: every register, the captures and the input (42_value_accessors.md). -/
def Obligations.ReadingFrame : Prop :=
  ∀ (i : Instr) (s t : State), i.isRead = true → exec i s = .next t →
    t.registers = s.registers ∧ t.initialised = s.initialised ∧ t.captureLog = s.captureLog ∧
    t.inputs = s.inputs ∧ ∃ r, t.readLog = s.readLog ++ [r]

/-- Reads do not disturb a run: the same operations without their reads end in the same state but for the
results read (42_value_accessors.md rule R112, derived there). That the list of results goes on across an
INIT is the model's choice (notes/assumptions/4.md). -/
def Obligations.RunIsTheSameWithoutItsReads : Prop :=
  ∀ (is : List Instr) (s t : State), performAll is s = .next t →
    performAll (is.filter fun i => !i.isRead) s = .next { t with readLog := s.readLog }
end

