-- ==== Sys2Proof/Laws/State.lean ====
section
/-! SUPPORT. One lemma per field of State and named update, so that no proof unfolds a record update, and the
outputs and the register view as projections. -/

namespace Sys2Proof.Machine

section setAddress

variable (s : State) (a : SlotNumber)

@[simp] theorem State.setAddress_listeningAddress : (s.setAddress a).listeningAddress = a := rfl
@[simp] theorem State.setAddress_indicatorState : (s.setAddress a).indicatorState = indicatorOf a := rfl
@[simp] theorem State.setAddress_signalState : (s.setAddress a).signalState = s.signalState := rfl
@[simp] theorem State.setAddress_slotCounter : (s.setAddress a).slotCounter = s.slotCounter := rfl
@[simp] theorem State.setAddress_capturedValue : (s.setAddress a).capturedValue = s.capturedValue := rfl
@[simp] theorem State.setAddress_initialised : (s.setAddress a).initialised = s.initialised := rfl
@[simp] theorem State.setAddress_readLog : (s.setAddress a).readLog = s.readLog := rfl
@[simp] theorem State.setAddress_captureLog : (s.setAddress a).captureLog = s.captureLog := rfl
@[simp] theorem State.setAddress_inputs : (s.setAddress a).inputs = s.inputs := rfl

end setAddress

section setSignal

variable (s : State) (q : SignalState)

@[simp] theorem State.setSignal_listeningAddress : (s.setSignal q).listeningAddress = s.listeningAddress := rfl
@[simp] theorem State.setSignal_indicatorState : (s.setSignal q).indicatorState = s.indicatorState := rfl
@[simp] theorem State.setSignal_signalState : (s.setSignal q).signalState = q := rfl
@[simp] theorem State.setSignal_slotCounter : (s.setSignal q).slotCounter = s.slotCounter := rfl
@[simp] theorem State.setSignal_capturedValue : (s.setSignal q).capturedValue = s.capturedValue := rfl
@[simp] theorem State.setSignal_initialised : (s.setSignal q).initialised = s.initialised := rfl
@[simp] theorem State.setSignal_readLog : (s.setSignal q).readLog = s.readLog := rfl
@[simp] theorem State.setSignal_captureLog : (s.setSignal q).captureLog = s.captureLog := rfl
@[simp] theorem State.setSignal_inputs : (s.setSignal q).inputs = s.inputs := rfl

end setSignal

section setSlotCounter

variable (s : State) (n : SlotNumber)

@[simp] theorem State.setSlotCounter_listeningAddress : (s.setSlotCounter n).listeningAddress = s.listeningAddress := rfl
@[simp] theorem State.setSlotCounter_indicatorState : (s.setSlotCounter n).indicatorState = s.indicatorState := rfl
@[simp] theorem State.setSlotCounter_signalState : (s.setSlotCounter n).signalState = s.signalState := rfl
@[simp] theorem State.setSlotCounter_slotCounter : (s.setSlotCounter n).slotCounter = n := rfl
@[simp] theorem State.setSlotCounter_capturedValue : (s.setSlotCounter n).capturedValue = s.capturedValue := rfl
@[simp] theorem State.setSlotCounter_initialised : (s.setSlotCounter n).initialised = s.initialised := rfl
@[simp] theorem State.setSlotCounter_readLog : (s.setSlotCounter n).readLog = s.readLog := rfl
@[simp] theorem State.setSlotCounter_captureLog : (s.setSlotCounter n).captureLog = s.captureLog := rfl
@[simp] theorem State.setSlotCounter_inputs : (s.setSlotCounter n).inputs = s.inputs := rfl

end setSlotCounter

section setCapturedValue

variable (s : State) (v : Byte)

@[simp] theorem State.setCapturedValue_listeningAddress : (s.setCapturedValue v).listeningAddress = s.listeningAddress := rfl
@[simp] theorem State.setCapturedValue_indicatorState : (s.setCapturedValue v).indicatorState = s.indicatorState := rfl
@[simp] theorem State.setCapturedValue_signalState : (s.setCapturedValue v).signalState = s.signalState := rfl
@[simp] theorem State.setCapturedValue_slotCounter : (s.setCapturedValue v).slotCounter = s.slotCounter := rfl
@[simp] theorem State.setCapturedValue_capturedValue : (s.setCapturedValue v).capturedValue = v := rfl
@[simp] theorem State.setCapturedValue_initialised : (s.setCapturedValue v).initialised = s.initialised := rfl
@[simp] theorem State.setCapturedValue_readLog : (s.setCapturedValue v).readLog = s.readLog := rfl
@[simp] theorem State.setCapturedValue_captureLog : (s.setCapturedValue v).captureLog = s.captureLog := rfl
@[simp] theorem State.setCapturedValue_inputs : (s.setCapturedValue v).inputs = s.inputs := rfl

end setCapturedValue

section capture

variable (s : State) (v : Byte)

@[simp] theorem State.capture_listeningAddress : (s.capture v).listeningAddress = s.listeningAddress := rfl
@[simp] theorem State.capture_indicatorState : (s.capture v).indicatorState = s.indicatorState := rfl
@[simp] theorem State.capture_signalState : (s.capture v).signalState = s.signalState := rfl
@[simp] theorem State.capture_slotCounter : (s.capture v).slotCounter = s.slotCounter := rfl
@[simp] theorem State.capture_capturedValue : (s.capture v).capturedValue = v := rfl
@[simp] theorem State.capture_initialised : (s.capture v).initialised = s.initialised := rfl
@[simp] theorem State.capture_readLog : (s.capture v).readLog = s.readLog := rfl
@[simp] theorem State.capture_captureLog : (s.capture v).captureLog = s.captureLog ++ [v] := rfl
@[simp] theorem State.capture_inputs : (s.capture v).inputs = s.inputs := rfl

end capture

section returnRead

variable (s : State) (r : ReadResult)

@[simp] theorem State.returnRead_listeningAddress : (s.returnRead r).listeningAddress = s.listeningAddress := rfl
@[simp] theorem State.returnRead_indicatorState : (s.returnRead r).indicatorState = s.indicatorState := rfl
@[simp] theorem State.returnRead_signalState : (s.returnRead r).signalState = s.signalState := rfl
@[simp] theorem State.returnRead_slotCounter : (s.returnRead r).slotCounter = s.slotCounter := rfl
@[simp] theorem State.returnRead_capturedValue : (s.returnRead r).capturedValue = s.capturedValue := rfl
@[simp] theorem State.returnRead_initialised : (s.returnRead r).initialised = s.initialised := rfl
@[simp] theorem State.returnRead_readLog : (s.returnRead r).readLog = s.readLog ++ [r] := rfl
@[simp] theorem State.returnRead_captureLog : (s.returnRead r).captureLog = s.captureLog := rfl
@[simp] theorem State.returnRead_inputs : (s.returnRead r).inputs = s.inputs := rfl

end returnRead

section markInitialised

variable (s : State)

@[simp] theorem State.markInitialised_listeningAddress : (s.markInitialised).listeningAddress = s.listeningAddress := rfl
@[simp] theorem State.markInitialised_indicatorState : (s.markInitialised).indicatorState = s.indicatorState := rfl
@[simp] theorem State.markInitialised_signalState : (s.markInitialised).signalState = s.signalState := rfl
@[simp] theorem State.markInitialised_slotCounter : (s.markInitialised).slotCounter = s.slotCounter := rfl
@[simp] theorem State.markInitialised_capturedValue : (s.markInitialised).capturedValue = s.capturedValue := rfl
@[simp] theorem State.markInitialised_initialised : (s.markInitialised).initialised = true := rfl
@[simp] theorem State.markInitialised_readLog : (s.markInitialised).readLog = s.readLog := rfl
@[simp] theorem State.markInitialised_captureLog : (s.markInitialised).captureLog = s.captureLog := rfl
@[simp] theorem State.markInitialised_inputs : (s.markInitialised).inputs = s.inputs := rfl

end markInitialised

section setInputs

variable (s : State) (is : List Input)

@[simp] theorem State.setInputs_listeningAddress : (s.setInputs is).listeningAddress = s.listeningAddress := rfl
@[simp] theorem State.setInputs_indicatorState : (s.setInputs is).indicatorState = s.indicatorState := rfl
@[simp] theorem State.setInputs_signalState : (s.setInputs is).signalState = s.signalState := rfl
@[simp] theorem State.setInputs_slotCounter : (s.setInputs is).slotCounter = s.slotCounter := rfl
@[simp] theorem State.setInputs_capturedValue : (s.setInputs is).capturedValue = s.capturedValue := rfl
@[simp] theorem State.setInputs_initialised : (s.setInputs is).initialised = s.initialised := rfl
@[simp] theorem State.setInputs_readLog : (s.setInputs is).readLog = s.readLog := rfl
@[simp] theorem State.setInputs_captureLog : (s.setInputs is).captureLog = s.captureLog := rfl
@[simp] theorem State.setInputs_inputs : (s.setInputs is).inputs = is := rfl

end setInputs

section pushInput

variable (s : State) (inp : Input)

@[simp] theorem State.pushInput_listeningAddress : (s.pushInput inp).listeningAddress = s.listeningAddress := rfl
@[simp] theorem State.pushInput_indicatorState : (s.pushInput inp).indicatorState = s.indicatorState := rfl
@[simp] theorem State.pushInput_signalState : (s.pushInput inp).signalState = s.signalState := rfl
@[simp] theorem State.pushInput_slotCounter : (s.pushInput inp).slotCounter = s.slotCounter := rfl
@[simp] theorem State.pushInput_capturedValue : (s.pushInput inp).capturedValue = s.capturedValue := rfl
@[simp] theorem State.pushInput_initialised : (s.pushInput inp).initialised = s.initialised := rfl
@[simp] theorem State.pushInput_readLog : (s.pushInput inp).readLog = s.readLog := rfl
@[simp] theorem State.pushInput_captureLog : (s.pushInput inp).captureLog = s.captureLog := rfl
@[simp] theorem State.pushInput_inputs : (s.pushInput inp).inputs = inp :: s.inputs := rfl

end pushInput

section withProgram

variable (s : State) (ws : List Word)

@[simp] theorem State.withProgram_listeningAddress : (s.withProgram ws).listeningAddress = s.listeningAddress := rfl
@[simp] theorem State.withProgram_indicatorState : (s.withProgram ws).indicatorState = s.indicatorState := rfl
@[simp] theorem State.withProgram_signalState : (s.withProgram ws).signalState = s.signalState := rfl
@[simp] theorem State.withProgram_slotCounter : (s.withProgram ws).slotCounter = s.slotCounter := rfl
@[simp] theorem State.withProgram_capturedValue : (s.withProgram ws).capturedValue = s.capturedValue := rfl
@[simp] theorem State.withProgram_initialised : (s.withProgram ws).initialised = s.initialised := rfl
@[simp] theorem State.withProgram_readLog : (s.withProgram ws).readLog = s.readLog := rfl
@[simp] theorem State.withProgram_captureLog : (s.withProgram ws).captureLog = s.captureLog := rfl
@[simp] theorem State.withProgram_inputs : (s.withProgram ws).inputs = ws.map .word := rfl

end withProgram

@[simp] theorem State.valueOut_eq (s : State) : s.valueOut = s.capturedValue := rfl
@[simp] theorem State.addrValid_eq (s : State) : s.addrValid = s.indicatorState := rfl

@[simp] theorem State.registers_listeningAddress (s : State) : s.registers.listeningAddress = s.listeningAddress := rfl
@[simp] theorem State.registers_indicatorState (s : State) : s.registers.indicatorState = s.indicatorState := rfl
@[simp] theorem State.registers_signalState (s : State) : s.registers.signalState = s.signalState := rfl
@[simp] theorem State.registers_slotCounter (s : State) : s.registers.slotCounter = s.slotCounter := rfl
@[simp] theorem State.registers_capturedValue (s : State) : s.registers.capturedValue = s.capturedValue := rfl

end Sys2Proof.Machine
end

