-- ==== Sys2Proof/Laws/Decode.lean ====
section
/-! SUPPORT. The operand fields of the event word, read back from the encoder's words, and the table word. -/

namespace Sys2Proof

theorem tableWord_sixteen (w : Nat) : tableWord 16 w = BitVec.ofNat 16 w := by
  apply BitVec.eq_of_toNat_eq
  simp [tableWord]

/-- A field of the word as a number. -/
theorem wordField_toNat (w : Word) (lo len : Nat) :
    (wordField w lo len).toNat = w.toNat / 2 ^ lo % 2 ^ len := by
  simp [wordField, Nat.shiftRight_eq_div_pow]

theorem encode_rxDat_toNat (data : Byte) : (encode (.rxDat data)).toNat = data.toNat := by
  revert data
  decide +kernel

theorem encode_rxBrk_toNat (data : Byte) : (encode (.rxBrk data)).toNat = 256 + data.toNat := by
  revert data
  decide +kernel

theorem encode_sw_toNat (raw : Raw10) : (encode (.sw raw)).toNat = 8192 + raw.toNat := by
  revert raw
  decide +kernel

theorem encode_init_toNat (raw : Raw10) : (encode (.init raw)).toNat = 32768 + raw.toNat := by
  revert raw
  decide +kernel

theorem wordField_encode_rxDat (data : Byte) : wordField (encode (.rxDat data)) 0 8 = data := by
  revert data
  decide +kernel

theorem wordField_encode_rxBrk (data : Byte) : wordField (encode (.rxBrk data)) 0 8 = data := by
  revert data
  decide +kernel

theorem wordField_encode_sw (raw : Raw10) : wordField (encode (.sw raw)) 0 10 = raw := by
  revert raw
  decide +kernel

theorem wordField_encode_init (raw : Raw10) : wordField (encode (.init raw)) 0 10 = raw := by
  revert raw
  decide +kernel

end Sys2Proof
end

