-- ==== Sys2Proof/Laws/Operands.lean ====
section
/-! SUPPORT. The operand and flag functions: the assembled value as a number, and what the address
validation and the indicator can give. -/

namespace Sys2Proof.Machine

/-- `v = 1023 - raw10` (30_encoding.md rule R63). -/
theorem assembledValue_toNat (raw : Raw10) : (assembledValue raw).toNat = 1023 - raw.toNat := by
  have h := raw.isLt
  simp only [assembledValue, BitVec.toNat_setWidth, BitVec.toNat_not]
  omega

theorem decodeAddr_of_valid {v : SlotNumber} (h1 : 1 ≤ v.toNat) (h2 : v.toNat ≤ 512) : decodeAddr v = v := by
  rw [decodeAddr, if_neg]
  rintro (rfl | h)
  · simp at h1
  · simp only [Config.addrMax] at h; omega

theorem decodeAddr_of_invalid {v : SlotNumber} (h : v.toNat = 0 ∨ 513 ≤ v.toNat) : decodeAddr v = 0 := by
  rw [decodeAddr, if_pos (h.imp (fun h0 => BitVec.eq_of_toNat_eq h0) id), Config.addrInvalid]

/-- The validation leaves 0 or an address in range (10_state.md rule R23). -/
theorem decodeAddr_legal (v : SlotNumber) :
    decodeAddr v = 0 ∨ (1 ≤ (decodeAddr v).toNat ∧ (decodeAddr v).toNat ≤ 512) := by
  by_cases h : v.toNat = 0 ∨ 513 ≤ v.toNat
  · exact .inl (decodeAddr_of_invalid h)
  · rw [decodeAddr_of_valid (by omega) (by omega)]; right; omega

theorem addressOf_legal (raw : Raw10) :
    addressOf raw = 0 ∨ (1 ≤ (addressOf raw).toNat ∧ (addressOf raw).toNat ≤ 512) := decodeAddr_legal _

theorem addressOf_of_valid {raw : Raw10} (h1 : 1 ≤ 1023 - raw.toNat) (h2 : 1023 - raw.toNat ≤ 512) :
    addressOf raw = BitVec.ofNat 16 (1023 - raw.toNat) := by
  have hv := assembledValue_toNat raw
  rw [addressOf, decodeAddr_of_valid (by omega) (by omega), ← hv, BitVec.ofNat_toNat, BitVec.setWidth_eq]

theorem addressOf_of_invalid {raw : Raw10} (h : 1023 - raw.toNat = 0 ∨ 513 ≤ 1023 - raw.toNat) :
    addressOf raw = 0 := by
  rw [addressOf, decodeAddr_of_invalid (by rwa [assembledValue_toNat])]

theorem indicatorOf_eq_true {a : SlotNumber} : indicatorOf a = true ↔ a ≠ Config.addrInvalid := by
  simp [indicatorOf]

theorem indicatorOf_eq_false {a : SlotNumber} : indicatorOf a = false ↔ a = Config.addrInvalid := by
  simp [indicatorOf]

end Sys2Proof.Machine
end

