-- ==== Sys2Proof/Laws/Ops.lean ====
section
/-! SUPPORT. The shared operations over outcomes and inputs: what each can answer, said once. -/

namespace Sys2Proof.Machine

theorem afterInit_of_initialised {s s' : State} (h : s.initialised = true) : afterInit s s' = .next s' := by
  simp [afterInit, h]

theorem afterInit_of_not_initialised {s s' : State} (h : s.initialised = false) :
    afterInit s s' = .refused .beforeInit := by
  simp [afterInit, h]

/-- All that an operation guarded by the first INIT can answer. -/
theorem afterInit_cases (s s' : State) :
    (s.initialised = true ∧ afterInit s s' = .next s') ∨
      (s.initialised = false ∧ afterInit s s' = .refused .beforeInit) := by
  cases h : s.initialised
  · exact .inr ⟨rfl, afterInit_of_not_initialised h⟩
  · exact .inl ⟨rfl, afterInit_of_initialised h⟩

theorem afterInit_eq_next {s s' t : State} : afterInit s s' = .next t ↔ s.initialised = true ∧ s' = t := by
  obtain ⟨h, e⟩ | ⟨h, e⟩ := afterInit_cases s s' <;> simp [h, e]

theorem andThen_next (s : State) (k : State → Result) : andThen (.next s) k = k s := rfl

/-- A sequence answers a next state only through a next state of its first part. -/
theorem andThen_eq_next {r : Result} {k : State → Result} {t : State} :
    andThen r k = .next t ↔ ∃ s, r = .next s ∧ k s = .next t := by
  cases r <;> simp [andThen]

theorem takeInput_nil {s : State} (h : s.inputs = []) : s.takeInput = none := by
  simp [State.takeInput, h]

theorem takeInput_cons {s : State} {inp : Input} {rest : List Input} (h : s.inputs = inp :: rest) :
    s.takeInput = some (inp, s.setInputs rest) := by
  simp [State.takeInput, h]

theorem takeInput_pushInput (s : State) (inp : Input) : (s.pushInput inp).takeInput = some (inp, s) := rfl

end Sys2Proof.Machine
end

