-- ==== Sys2Proof/Laws/Receive.lean ====
section
/-! SUPPORT. The frame synchronizer's step, one lemma per case of 41_frame_synchronizer.md rule R90, and what a
received byte can and cannot change. -/

namespace Sys2Proof.Machine

variable {s : State} {ferr : Bool} {data : Byte}

theorem receive_of_invalid (h : s.listeningAddress = Config.addrInvalid) : receive ferr data s = s := by
  simp [receive, h]

theorem receive_break (h : s.listeningAddress ≠ Config.addrInvalid) :
    receive true data s = s.setSignal .breakDetected := by
  simp [receive, h]

theorem receive_waiting (h : s.listeningAddress ≠ Config.addrInvalid) (hq : s.signalState = .waitingForBreak) :
    receive false data s = s := by
  simp [receive, h, hq]

theorem receive_startCode (h : s.listeningAddress ≠ Config.addrInvalid) (hq : s.signalState = .breakDetected) :
    receive false Config.startCode s = (s.setSignal .receivingData).setSlotCounter 0#16 := by
  simp [receive, h, hq, acceptStartCode]

theorem receive_otherStartCode (h : s.listeningAddress ≠ Config.addrInvalid) (hq : s.signalState = .breakDetected)
    (hd : data ≠ Config.startCode) : receive false data s = s.setSignal .waitingForBreak := by
  simp [receive, h, hq, acceptStartCode, hd]

theorem receive_capture (h : s.listeningAddress ≠ Config.addrInvalid) (hq : s.signalState = .receivingData)
    (hn : s.slotCounter + 1#16 = s.listeningAddress) :
    receive false data s =
      ((s.setSlotCounter (s.slotCounter + 1#16)).capture data).setSignal .waitingForBreak := by
  simp [receive, h, hq, countSlot, hn]

theorem receive_count (h : s.listeningAddress ≠ Config.addrInvalid) (hq : s.signalState = .receivingData)
    (hn : s.slotCounter + 1#16 ≠ s.listeningAddress) :
    receive false data s = s.setSlotCounter (s.slotCounter + 1#16) := by
  simp [receive, h, hq, countSlot, hn]

/-- All that one received byte can do, with the condition of each case (rules R91 to R96). -/
theorem receive_cases (ferr : Bool) (data : Byte) (s : State) :
    (s.listeningAddress = Config.addrInvalid ∧ receive ferr data s = s) ∨
    (s.listeningAddress ≠ Config.addrInvalid ∧ ferr = true ∧
      receive ferr data s = s.setSignal .breakDetected) ∨
    (s.listeningAddress ≠ Config.addrInvalid ∧ ferr = false ∧ s.signalState = .waitingForBreak ∧
      receive ferr data s = s) ∨
    (s.listeningAddress ≠ Config.addrInvalid ∧ ferr = false ∧ s.signalState = .breakDetected ∧
      data = Config.startCode ∧ receive ferr data s = (s.setSignal .receivingData).setSlotCounter 0#16) ∨
    (s.listeningAddress ≠ Config.addrInvalid ∧ ferr = false ∧ s.signalState = .breakDetected ∧
      data ≠ Config.startCode ∧ receive ferr data s = s.setSignal .waitingForBreak) ∨
    (s.listeningAddress ≠ Config.addrInvalid ∧ ferr = false ∧ s.signalState = .receivingData ∧
      s.slotCounter + 1#16 = s.listeningAddress ∧
      receive ferr data s =
        ((s.setSlotCounter (s.slotCounter + 1#16)).capture data).setSignal .waitingForBreak) ∨
    (s.listeningAddress ≠ Config.addrInvalid ∧ ferr = false ∧ s.signalState = .receivingData ∧
      s.slotCounter + 1#16 ≠ s.listeningAddress ∧
      receive ferr data s = s.setSlotCounter (s.slotCounter + 1#16)) := by
  by_cases h : s.listeningAddress = Config.addrInvalid
  · exact .inl ⟨h, receive_of_invalid h⟩
  refine .inr ?_
  cases ferr
  · refine .inr ?_
    cases hq : s.signalState
    · exact .inl ⟨h, rfl, rfl, receive_waiting h hq⟩
    · refine .inr ?_
      by_cases hd : data = Config.startCode
      · exact .inl ⟨h, rfl, rfl, hd, hd ▸ receive_startCode h hq⟩
      · exact .inr (.inl ⟨h, rfl, rfl, hd, receive_otherStartCode h hq hd⟩)
    · refine .inr (.inr (.inr ?_))
      by_cases hn : s.slotCounter + 1#16 = s.listeningAddress
      · exact .inl ⟨h, rfl, rfl, hn, receive_capture h hq hn⟩
      · exact .inr ⟨h, rfl, rfl, hn, receive_count h hq hn⟩
  · exact .inl ⟨h, rfl, receive_break h⟩

/-- A byte never changes what the frame synchronizer does not own (10_state.md rule R29). -/
theorem receive_frame (ferr : Bool) (data : Byte) (s : State) :
    (receive ferr data s).listeningAddress = s.listeningAddress ∧
    (receive ferr data s).indicatorState = s.indicatorState ∧
    (receive ferr data s).initialised = s.initialised ∧
    (receive ferr data s).readLog = s.readLog ∧ (receive ferr data s).inputs = s.inputs := by
  obtain ⟨_, e⟩ | ⟨_, _, e⟩ | ⟨_, _, _, e⟩ | ⟨_, _, _, _, e⟩ | ⟨_, _, _, _, e⟩ | ⟨_, _, _, _, e⟩ | ⟨_, _, _, _, e⟩ :=
    receive_cases ferr data s <;> simp [e]

end Sys2Proof.Machine
end

