-- ==== Sys2Proof/Laws/Exec.lean ====
section
/-! SUPPORT. Operations and sequences of them: one inversion lemma for `exec`, and how `performAll` splits. -/

namespace Sys2Proof.Machine

/-- The state an operation leaves when it is performed. -/
def effectOf : Instr → State → State
  | .rxDat data, s => receive false data s
  | .rxBrk data, s => receive true data s
  | .sw raw, s => recomputeAddress raw s
  | .rdValue, s => s.returnRead (.value s.valueOut)
  | .rdValid, s => s.returnRead (.valid s.addrValid)
  | .init raw, s => initialise raw s

theorem exec_init (raw : Raw10) (s : State) : exec (.init raw) s = .next (initialise raw s) := rfl

/-- All that `exec` can answer: the operation's effect, or the refusal before the first INIT. -/
theorem exec_cases (i : Instr) (s : State) :
    ((s.initialised = true ∨ i.isInit = true) ∧ exec i s = .next (effectOf i s)) ∨
      (s.initialised = false ∧ i.isInit = false ∧ exec i s = .refused .beforeInit) := by
  cases i with
  | init raw => exact .inl ⟨.inr rfl, rfl⟩
  | _ =>
    obtain ⟨h, e⟩ | ⟨h, e⟩ := afterInit_cases s _
    · exact .inl ⟨.inl h, e⟩
    · exact .inr ⟨h, rfl, e⟩

theorem exec_eq_next {i : Instr} {s t : State} :
    exec i s = .next t ↔ (s.initialised = true ∨ i.isInit = true) ∧ effectOf i s = t := by
  obtain ⟨h, e⟩ | ⟨h, hi, e⟩ := exec_cases i s
  · simp [h, e]
  · simp [h, hi, e]

theorem effectOf_initialised {i : Instr} {s : State} (h : s.initialised = true ∨ i.isInit = true) :
    (effectOf i s).initialised = true := by
  cases i <;> simp_all [effectOf, receive_frame, recomputeAddress, initialise, Instr.isInit]

theorem effectOf_inputs (i : Instr) (s : State) : (effectOf i s).inputs = s.inputs := by
  cases i <;> simp [effectOf, receive_frame, recomputeAddress, initialise]

theorem performAll_nil (s : State) : performAll [] s = .next s := rfl

theorem performAll_singleton (i : Instr) (s : State) : performAll [i] s = exec i s := by
  simp only [performAll]; cases exec i s <;> rfl

theorem performAll_cons_eq_next {i : Instr} {is : List Instr} {s t : State} :
    performAll (i :: is) s = .next t ↔ ∃ u, exec i s = .next u ∧ performAll is u = .next t :=
  andThen_eq_next

theorem performAll_append (is js : List Instr) (s : State) :
    performAll (is ++ js) s = andThen (performAll is s) (performAll js) := by
  induction is generalizing s with
  | nil => rfl
  | cons i is ih =>
    simp only [List.cons_append, performAll]
    cases exec i s with
    | next u => exact ih u
    | fault f => rfl
    | refused why => rfl

/-- Packages an induction over a sequence: what each performed operation keeps, the sequence keeps. -/
theorem performAll_invariant {P : State → Prop} {is : List Instr}
    (hP : ∀ i ∈ is, ∀ u v, P u → exec i u = .next v → P v) {s t : State} (hs : P s)
    (h : performAll is s = .next t) : P t := by
  induction is generalizing s with
  | nil => cases h; exact hs
  | cons i is ih =>
    obtain ⟨u, hu, hr⟩ := performAll_cons_eq_next.1 h
    exact ih (fun j hj => hP j (.tail i hj)) (hP i (.head is) s u hs hu) hr

end Sys2Proof.Machine
end

