-- ==== Sys2Proof/Laws/Step.lean ====
section
/-! SUPPORT. One step: what it can answer, said once. -/

namespace Sys2Proof.Machine

theorem performInput_word_ok {w : Word} {i : Instr} (h : decode w = .ok i) (s : State) :
    performInput (.word w) s = exec i s := by
  simp [performInput, h]

theorem performInput_word_reserved {w : Word} {why : Reserved} (h : decode w = .error why) (s : State) :
    performInput (.word w) s = .refused (.reservedWord w why) := by
  simp [performInput, h]

theorem step_eq_of_takeInput {s s' : State} {inp : Input} (h : s.takeInput = some (inp, s')) :
    step s = performInput inp s' := by
  simp [step, h]

/-- What a step does: nothing when no input is left, else the next input's operations. -/
theorem step_cases (s : State) :
    (s.inputs = [] ∧ step s = .next s) ∨
      ∃ inp rest, s.inputs = inp :: rest ∧ step s = performInput inp (s.setInputs rest) := by
  cases h : s.inputs with
  | nil => exact .inl ⟨rfl, by simp [step, takeInput_nil h]⟩
  | cons inp rest => exact .inr ⟨inp, rest, rfl, step_eq_of_takeInput (takeInput_cons h)⟩

theorem step_withFetchWord (s : State) (nbits w : Nat) :
    step (s.withFetchWord nbits w) = performInput (.word (tableWord nbits w)) s := rfl

end Sys2Proof.Machine
end

