-- ==== Sys2Proof/Laws/PerInstr.lean ====
section
/-! SUPPORT. Statements about every operation as syntax, one lemma per constructor. -/

/-- The event word of an operation carries its KIND in bits [15:13] (30_encoding.md rule R65). -/
def Sys2Proof.Laws.KindField.Statement (i : Sys2Proof.Instr) : Prop :=
  Sys2Proof.wordField (Sys2Proof.encode i) 13 3 = i.kind

theorem Sys2Proof.Laws.KindField.rxDat (data : Sys2Proof.Byte) :
    Sys2Proof.Laws.KindField.Statement (.rxDat data) := by
  unfold Sys2Proof.Laws.KindField.Statement
  revert data
  decide +kernel

theorem Sys2Proof.Laws.KindField.rxBrk (data : Sys2Proof.Byte) :
    Sys2Proof.Laws.KindField.Statement (.rxBrk data) := by
  unfold Sys2Proof.Laws.KindField.Statement
  revert data
  decide +kernel

theorem Sys2Proof.Laws.KindField.sw (raw : Sys2Proof.Raw10) :
    Sys2Proof.Laws.KindField.Statement (.sw raw) := by
  unfold Sys2Proof.Laws.KindField.Statement
  revert raw
  decide +kernel

theorem Sys2Proof.Laws.KindField.rdValue : Sys2Proof.Laws.KindField.Statement .rdValue := by
  unfold Sys2Proof.Laws.KindField.Statement
  decide

theorem Sys2Proof.Laws.KindField.rdValid : Sys2Proof.Laws.KindField.Statement .rdValid := by
  unfold Sys2Proof.Laws.KindField.Statement
  decide

theorem Sys2Proof.Laws.KindField.init (raw : Sys2Proof.Raw10) :
    Sys2Proof.Laws.KindField.Statement (.init raw) := by
  unfold Sys2Proof.Laws.KindField.Statement
  revert raw
  decide +kernel
end

