-- ==== Sys2Proof/Tests/Slice0.lean ====
section
/-! SUPPORT. The model's own tests, their expected results from 95_test_vectors.md and the rules of spec/, and
for every obligation with hypotheses a witness that meets them all. -/

namespace Sys2Proof.Tests

open Sys2Proof.Machine

/-- The register tuple `(LA, IND, SS, SC, CV)` of 95_test_vectors.md. -/
def tuple (la : SlotNumber) (ind : Bool) (ss : SignalState) (sc : SlotNumber) (cv : Byte) : Registers :=
  ⟨la, ind, ss, sc, cv⟩

/-- An initialised state with the given registers, nothing observed and no input. -/
def mk (la : SlotNumber) (ind : Bool) (ss : SignalState) (sc : SlotNumber) (cv : Byte) : State :=
  ⟨la, ind, ss, sc, cv, true, [], [], []⟩

/-- A power-up state: some register contents, no INIT performed. -/
def poweredUp : State := ⟨0xFFFF, false, .receivingData, 0xABCD, 0x5A, false, [], [], []⟩

/-- The registers and captures after one operation. -/
def after (i : Instr) (s : State) : Option (Registers × List Byte) :=
  (nextState? (exec i s)).map fun t => (t.registers, t.captureLog)

/-- The registers and reads after one step on the given clock edge. -/
def afterEdge (e : Edge) (s : State) : Option (Registers × List ReadResult) :=
  (nextState? (step (s.pushInput (.edge e)))).map fun t => (t.registers, t.readLog)

/-- The ports with nothing strobed and every switch open. -/
def quietPorts : Edge := ⟨false, false, 0, false, 0b1111, 0b111111, false, false, false⟩

/-! ## Well-formedness: one ill-formed line for each operand check, refused (30_encoding.md rule R72) -/

theorem test_illFormed_byte_operands :
    (AsmLine.rxDat 256).wellFormed = false ∧ (AsmLine.rxBrk 256).wellFormed = false ∧
    (AsmLine.slot 256).wellFormed = false ∧ (AsmLine.rxDat 255).wellFormed = true := by decide

theorem test_illFormed_switch_operands :
    (AsmLine.sw 1024).wellFormed = false ∧ (AsmLine.init 1024).wellFormed = false ∧
    (AsmLine.setAddr 1024).wellFormed = false ∧ (AsmLine.initAddr 1024).wellFormed = false ∧
    (AsmLine.sw 1023).wellFormed = true := by decide

theorem test_illFormed_program_is_assembly_error :
    (AsmProgram.seq (.line .brk) (.rep 0 (.line (.slot 256)))).assemble = none := by decide

/-! ## Decoding: words written out bit by bit from the patterns of 30_encoding.md rules R66 to R68 -/

theorem test_decode_rxDat : decode 0b0000000001111011 = .ok (.rxDat 0x7B) := by rfl

theorem test_decode_rxBrk : decode 0b0000000111111111 = .ok (.rxBrk 0xFF) := by rfl

theorem test_decode_sw : decode 0b0010001111111100 = .ok (.sw 0b1111111100) := by rfl

theorem test_decode_rdValue : decode 0b0100000000000000 = .ok .rdValue := by rfl

theorem test_decode_rdValid : decode 0b0110000000000000 = .ok .rdValid := by rfl

theorem test_decode_init : decode 0b1000000111111111 = .ok (.init 0b0111111111) := by rfl

theorem test_decode_reserved :
    decode 0b0000001000000000 = .error .rxBits ∧ decode 0b0011000000000000 = .error .switchBits ∧
    decode 0b0101000000000000 = .error .readBits ∧ decode 0b0110000000000001 = .error .readBits ∧
    decode 0b1001000000000000 = .error .switchBits ∧ decode 0b1010000000000000 = .error .kind :=
  ⟨rfl, rfl, rfl, rfl, rfl, rfl⟩

/-- 95_test_vectors.md V-L1-6: the scenario's break and start, and its address as `INITADDR 3`. -/
theorem test_assemble_scenario :
    (AsmProgram.seq (.line (.initAddr 3)) (.seq (.line (.rxBrk 0xFF)) (.rep 2 (.line .start)))).assemble =
      some [0x83FC, 0x01FF, 0x0000, 0x0000] := by decide

theorem test_decodeTableWord : decodeTableWord 16 0x23FC = some (.sw 0x3FC) ∧ decodeTableWord 16 0xFFFF = none :=
  ⟨rfl, rfl⟩

/-! ## One operation each (95_test_vectors.md sections 2.2 to 2.5) -/

/-- Section 2.2: `raw10`, the address, the indicator. -/
theorem test_sw_address_table :
    (after (.sw 0x3FF) (mk 9 true .waitingForBreak 0 0)).map Prod.fst =
      some (tuple 0 false .waitingForBreak 0 0) ∧
    (after (.sw 0x3F0) (mk 0 false .waitingForBreak 0 0)).map Prod.fst =
      some (tuple 15 true .waitingForBreak 0 0) ∧
    (after (.sw 0x3EF) (mk 0 false .waitingForBreak 0 0)).map Prod.fst =
      some (tuple 16 true .waitingForBreak 0 0) ∧
    (after (.sw 0x1FF) (mk 0 false .waitingForBreak 0 0)).map Prod.fst =
      some (tuple 512 true .waitingForBreak 0 0) ∧
    (after (.sw 0x1FE) (mk 9 true .waitingForBreak 0 0)).map Prod.fst =
      some (tuple 0 false .waitingForBreak 0 0) := by decide

/-- Section 2.2, frame state unaffected. -/
theorem test_sw_keeps_frame :
    after (.sw 0x3FD) (mk 3 true .receivingData 2 0x11) = some (tuple 2 true .receivingData 2 0x11, []) := by
  decide

/-- Section 2.3, rows 2, 7, 8, 9 and 10. -/
theorem test_rxDat_before_the_count :
    after (.rxDat 0x55) (mk 0 false .receivingData 7 0) = some (tuple 0 false .receivingData 7 0, []) ∧
    after (.rxDat 0x00) (mk 3 true .waitingForBreak 0 0) = some (tuple 3 true .waitingForBreak 0 0, []) ∧
    after (.rxDat 0x00) (mk 3 true .breakDetected 0x01F4 0) = some (tuple 3 true .receivingData 0 0, []) ∧
    after (.rxDat 0x01) (mk 3 true .breakDetected 5 0) = some (tuple 3 true .waitingForBreak 5 0, []) ∧
    after (.rxDat 0xFF) (mk 3 true .breakDetected 5 0) = some (tuple 3 true .waitingForBreak 5 0, []) := by
  decide

/-- Section 2.3, rows 11 to 16 and 18. -/
theorem test_rxDat_counts_and_captures :
    after (.rxDat 0x10) (mk 3 true .receivingData 0 9) = some (tuple 3 true .receivingData 1 9, []) ∧
    after (.rxDat 0x7B) (mk 3 true .receivingData 2 9) = some (tuple 3 true .waitingForBreak 3 0x7B, [0x7B]) ∧
    after (.rxDat 0x42) (mk 512 true .receivingData 511 9) =
      some (tuple 512 true .waitingForBreak 512 0x42, [0x42]) ∧
    after (.rxDat 0x00) (mk 1 true .receivingData 0 9) = some (tuple 1 true .waitingForBreak 1 0x00, [0x00]) ∧
    after (.rxDat 0x99) (mk 3 true .receivingData 3 9) = some (tuple 3 true .receivingData 4 9, []) ∧
    after (.rxDat 0x5A) (mk 1 true .receivingData 0xFFFF 9) = some (tuple 1 true .receivingData 0 9, []) ∧
    after (.rxDat 0x01) (mk 512 true .receivingData 512 9) = some (tuple 512 true .receivingData 513 9, []) := by
  decide

/-- Section 2.3, rows 1 and 4 to 6. -/
theorem test_rxBrk_rows :
    after (.rxBrk 0x00) (mk 0 false .waitingForBreak 0 9) = some (tuple 0 false .waitingForBreak 0 9, []) ∧
    after (.rxBrk 0x00) (mk 3 true .waitingForBreak 9 9) = some (tuple 3 true .breakDetected 9 9, []) ∧
    after (.rxBrk 0xFF) (mk 3 true .breakDetected 9 9) = some (tuple 3 true .breakDetected 9 9, []) ∧
    after (.rxBrk 0x7B) (mk 3 true .receivingData 2 9) = some (tuple 3 true .breakDetected 2 9, []) := by
  decide

/-- Section 2.4. -/
theorem test_rdValue_returns_the_capture :
    (nextState? (exec .rdValue (mk 3 true .waitingForBreak 3 0x7B))).map State.readLog = some [.value 0x7B] := by
  decide

/-- Section 2.4. -/
theorem test_rdValid_returns_the_indicator :
    (nextState? (exec .rdValid (mk 3 true .waitingForBreak 0 0))).map State.readLog = some [.valid true] ∧
    (nextState? (exec .rdValid (mk 0 false .waitingForBreak 0 0))).map State.readLog = some [.valid false] := by
  decide

/-- Section 2.5. -/
theorem test_init_rows :
    after (.init 0x3FC) (mk 3 true .receivingData 2 0x7B) = some (tuple 3 true .waitingForBreak 0 0x00, []) ∧
    after (.init 0x1FE) (mk 3 true .breakDetected 9 0x7B) = some (tuple 0 false .waitingForBreak 0 0x00, []) ∧
    after (.init 0x1FF) poweredUp = some (tuple 512 true .waitingForBreak 0 0x00, []) := by
  decide

/-- Section 2.5, last row. -/
theorem test_operation_before_init_refused : refusal? (exec (.rxDat 0x00) poweredUp) = some .beforeInit := by
  decide

/-! ## Steps on clock edges and words (95_test_vectors.md section 2.6, 30_encoding.md rule R69) -/

/-- RX.DAT 0x20 and SW 0x3FD on one edge: the count is compared with the old address. -/
theorem test_edge_rx_and_sw :
    afterEdge { quietPorts with rxValid := true, rxData := 0x20, swChange := true, swAN := 0b1101 }
      (mk 3 true .receivingData 1 0) = some (tuple 2 true .receivingData 2 0, []) := by decide

/-- RX.DAT 0x7B and RD.VALUE on one edge: the read returns the value from before the edge. -/
theorem test_edge_rx_and_read :
    afterEdge { quietPorts with rxValid := true, rxData := 0x7B, sampleValue := true }
      (mk 3 true .receivingData 2 0) = some (tuple 3 true .waitingForBreak 3 0x7B, [.value 0x00]) := by decide

/-- RX.DAT 0x7B with `rst = 1`: reset wins and the byte is dropped. -/
theorem test_edge_reset_wins :
    afterEdge { quietPorts with rst := true, rxValid := true, rxData := 0x7B, swAN := 0b1100 }
      (mk 3 true .receivingData 2 0) = some (tuple 3 true .waitingForBreak 0 0x00, []) := by decide

/-- The first step after reset runs the placed word; a reserved word is refused by name. -/
theorem test_step_from_reset :
    (nextState? (step (State.reset.withFetchWord 16 0x21FF))).map State.registers =
      some (tuple 512 true .waitingForBreak 0 0) ∧
    refusal? (step (State.reset.withFetchWord 16 0x4001)) = some (.reservedWord 0x4001 .readBits) := by decide

/-- With nothing placed the machine idles at reset. -/
theorem test_reset_idles : nextState? (step State.reset) = some State.reset := by decide

/-! ## Witnesses: concrete states and operands that meet every hypothesis of an obligation -/

theorem witness_AcceptedWordIsItsOperationsWord :
    decode 0x0000 = .ok (.rxDat 0x00) ∧ decode 0x00FF = .ok (.rxDat 0xFF) ∧ decode 0x83FF = .ok (.init 0x3FF) :=
  ⟨rfl, rfl, rfl⟩

/-- Each operand's range from both sides, and programs of each kind with a legal and with a bad line. -/
theorem witness_LegalProgramsAssembleToOperations :
    255 < 256 ∧ 1023 < 1024 ∧ (AsmLine.rxDat 255).assemble = some 0x00FF ∧ (AsmLine.rxDat 256).assemble = none ∧
    (AsmProgram.line (.sw 1023)).assemble = some [0x23FF] ∧ (AsmProgram.line (.init 1023)).assemble = some [0x83FF] ∧
    (AsmProgram.line (.sw 1024)).assemble = none ∧
    (AsmProgram.line (.sw 1023)).wellFormed = true ∧ (AsmProgram.line (.sw 1024)).wellFormed = false := by decide

theorem witness_PseudoInstructionsExpand :
    1023 ≤ 1023 ∧ (AsmProgram.line .brk).assemble = some [0x0100] := by decide

theorem witness_StepPerformsTheDecodedWord :
    (State.reset.withProgram [0x21FF]).inputs = .word 0x21FF :: [] ∧ decode 0x21FF = .ok (.sw 0x1FF) := ⟨rfl, rfl⟩

theorem witness_StepRefusesAReservedWord :
    (State.reset.withProgram [0xE000]).inputs = .word 0xE000 :: [] ∧ decode 0xE000 = .error .kind := ⟨rfl, rfl⟩

theorem witness_IdleCycleChangesNothing :
    State.reset.inputs = [] ∧ (poweredUp.pushInput (.edge quietPorts)).inputs = .edge quietPorts :: [] ∧
    quietPorts.rst = false ∧ quietPorts.rxValid = false ∧ quietPorts.swChange = false ∧
    quietPorts.sampleValue = false ∧ quietPorts.sampleValid = false := by decide

theorem witness_ResetEdgeIsInitAlone :
    (poweredUp.pushInput (.edge { quietPorts with rst := true, rxValid := true })).inputs =
      .edge { quietPorts with rst := true, rxValid := true } :: [] ∧
    Edge.rst { quietPorts with rst := true, rxValid := true } = true := by decide

theorem witness_EdgeReadsThenReceivesThenRecomputes :
    ((mk 3 true .receivingData 2 0).pushInput (.edge { quietPorts with rxValid := true, swChange := true })).initialised = true ∧
    ((mk 3 true .receivingData 2 0).pushInput (.edge { quietPorts with rxValid := true, swChange := true })).inputs =
      .edge { quietPorts with rxValid := true, swChange := true } :: [] ∧
    Edge.rst { quietPorts with rxValid := true, swChange := true } = false := by decide

/-- An SW edge with the given group values, presented at reset. -/
def swEdgeAtReset (b : GroupB) (a : GroupA) : State :=
  State.reset.pushInput (.edge { quietPorts with swChange := true, swBN := b, swAN := a })

/-- Group values for each clause at its boundary: 1 and 512 valid, 0 and 513 invalid. -/
theorem witness_SwitchGroupsFillTheirBits :
    (∀ g ∈ [((0b111111, 0b1110, 1) : GroupB × GroupA × Nat), (0b011111, 0b1111, 512), (0b111111, 0b1111, 0),
        (0b011111, 0b1110, 513)],
      (swEdgeAtReset g.1 g.2.1).initialised = true ∧
      (swEdgeAtReset g.1 g.2.1).inputs =
        .edge { quietPorts with swChange := true, swBN := g.1, swAN := g.2.1 } :: [] ∧
      16 * (63 - g.1.toNat) + (15 - g.2.1.toNat) = g.2.2) ∧
    quietPorts.rst = false ∧ quietPorts.rxValid = false ∧ quietPorts.sampleValue = false ∧
    quietPorts.sampleValid = false := by decide

/-- Both refusals happen. -/
theorem witness_StepNeverFaultsAndRefusesTwoThings :
    step (State.reset.withFetchWord 16 0xA000) = .refused (.reservedWord 0xA000 .kind) ∧
    step (poweredUp.withFetchWord 16 0x4000) = .refused .beforeInit := ⟨rfl, rfl⟩

theorem witness_OnlyInitRunsBeforeTheFirstInit :
    poweredUp.initialised = false ∧ (Instr.sw 0x3FC).isInit = false := by decide

/-- The boundary snapshots of both clauses: v = 1, 512 valid, v = 0, 513 invalid. -/
theorem witness_InitSetsEveryRegister_SwSetsAddressAndIndicator :
    State.reset.initialised = true ∧
    (1 ≤ 1023 - (0x3FE : Raw10).toNat ∧ 1023 - (0x3FE : Raw10).toNat ≤ 512) ∧
    (1 ≤ 1023 - (0x1FF : Raw10).toNat ∧ 1023 - (0x1FF : Raw10).toNat ≤ 512) ∧
    1023 - (0x3FF : Raw10).toNat = 0 ∧ 513 ≤ 1023 - (0x1FE : Raw10).toNat := by decide

theorem witness_RunAfterInitForgetsThePast :
    poweredUp.readLog = State.reset.readLog ∧ poweredUp.captureLog = State.reset.captureLog ∧
    poweredUp.registers ≠ State.reset.registers := by decide

theorem witness_AddressAndIndicatorStayLegal :
    (State.reset.withFetchWord 16 0x21FF).Inv ∧
    ∃ t, step (State.reset.withFetchWord 16 0x21FF) = .next t ∧ t.listeningAddress = 512 := by
  refine ⟨fun _ => ⟨.inl rfl, ?_⟩, _, rfl, by decide⟩
  unfold State.IndicatorAgrees
  decide

theorem witness_EveryOperationCompletesAfterInit : State.reset.initialised = true := by decide

theorem witness_SwKeepsTheFrameState :
    (∃ t, exec (.sw 0x3FD) (mk 3 true .receivingData 2 0x11) = .next t) ∧
    (mk 0 false .receivingData 2 0x11).listeningAddress = 0 ∧
    (∀ i ∈ [Instr.rxDat 1, .rxBrk 2, .rdValue], i.isRx = true ∨ i.isRead = true) ∧
    ∃ t, performAll [.rxDat 1, .rxBrk 2, .rdValue] (mk 0 false .receivingData 2 0x11) = .next t :=
  ⟨⟨_, rfl⟩, by decide, by decide, _, rfl⟩

theorem witness_AddrValidChangesOnlyAtSwOrInit :
    (Instr.rxDat 0).isRx = true ∧ Instr.rdValid.isRead = true ∧ (∃ t, exec (.rxDat 0) State.reset = .next t) ∧
    ∃ t, exec .rdValid State.reset = .next t := ⟨rfl, rfl, ⟨_, rfl⟩, _, rfl⟩

theorem witness_SwAndReadsRepeatHarmlesslyRxDoesNot :
    (∃ t, exec (.sw 0x3FC) State.reset = .next t) ∧ Instr.rdValue.isRead = true ∧
    ∃ t, exec .rdValue State.reset = .next t := ⟨⟨_, rfl⟩, rfl, _, rfl⟩

theorem witness_InvalidAddressIgnoresEveryByte :
    (mk 0 false .breakDetected 3 0).initialised = true ∧ (mk 0 false .breakDetected 3 0).listeningAddress = 0 ∧
    ∀ i ∈ [Instr.rxDat 0, .rxBrk 0], i.isRx = true := by decide

theorem witness_BreakEntersBreakDetected :
    (mk 3 true .receivingData 2 0).initialised = true ∧ (mk 3 true .receivingData 2 0).listeningAddress ≠ 0 := by
  decide

theorem witness_BytesAreDiscardedWhileWaiting :
    (mk 3 true .waitingForBreak 2 0).initialised = true ∧ (mk 3 true .waitingForBreak 2 0).listeningAddress ≠ 0 ∧
    (mk 3 true .waitingForBreak 2 0).signalState = .waitingForBreak := by decide

theorem witness_StartCodeLocksAndZeroesTheCount_OtherStartCodeDropsTheFrame :
    (mk 3 true .breakDetected 5 0).initialised = true ∧ (mk 3 true .breakDetected 5 0).listeningAddress ≠ 0 ∧
    (mk 3 true .breakDetected 5 0).signalState = .breakDetected ∧ (0x01 : Byte) ≠ 0x00 ∧
    (0xFF : Byte) ≠ 0x00 := by decide

/-- Each clause at a boundary: the highest slot, one past it, and the wrap of the count. -/
theorem witness_SlotIsCountedThenCapturedIfListened :
    (∀ s ∈ [mk 512 true .receivingData 511 0, mk 512 true .receivingData 512 0, mk 1 true .receivingData 0xFFFF 0],
      s.initialised = true ∧ s.listeningAddress ≠ 0 ∧ s.signalState = .receivingData) ∧
    ((511 : SlotNumber).toNat + 1) % 65536 = (512 : SlotNumber).toNat ∧
    ((512 : SlotNumber).toNat + 1) % 65536 ≠ (512 : SlotNumber).toNat ∧
    ((0xFFFF : SlotNumber).toNat + 1) % 65536 ≠ (1 : SlotNumber).toNat := by decide

theorem witness_ReceivingFrame :
    (Instr.rxDat 0x7B).isRx = true ∧ ∃ t, exec (.rxDat 0x7B) (mk 3 true .receivingData 2 0) = .next t :=
  ⟨rfl, _, rfl⟩

theorem witness_LongBreakIsOneBreak_BreakAndStartCodeHeal :
    (mk 3 true .receivingData 2 0).initialised = true ∧ (mk 3 true .receivingData 2 0).listeningAddress ≠ 0 ∧
    (0xCC : Byte) ≠ 0x00 ∧ (mk 0 false .receivingData 2 0).initialised = true ∧
    (mk 0 false .receivingData 2 0).listeningAddress = 0 := by decide

theorem witness_AtMostOneCaptureWithoutABreak :
    (∀ i ∈ [Instr.rxDat 0, .rxDat 0x7B, .rxDat 0x7B], i.isBreak = false) ∧
    ∃ t, performAll [.rxDat 0, .rxDat 0x7B, .rxDat 0x7B] (mk 1 true .breakDetected 0 0) = .next t ∧
      t.captureLog = [0x7B] := ⟨by decide, _, rfl, rfl⟩

/-- The lowest and the highest address. -/
theorem witness_FrameCapturesTheListenedSlotOnce :
    (mk 1 true .receivingData 9 0).initialised = true ∧
    ([] : List Byte).length + 1 = (mk 1 true .receivingData 9 0).listeningAddress.toNat ∧
    (List.replicate 511 (0x11 : Byte)).length + 1 = (mk 512 true .waitingForBreak 0 0).listeningAddress.toNat := by
  refine ⟨rfl, rfl, ?_⟩
  rw [List.length_replicate]
  rfl

theorem witness_CapturedValueIsTheMostRecentCapture :
    ∃ r t, exec (.init 0x3FE) poweredUp = .next r ∧
      (∀ i ∈ [Instr.rxBrk 0, .rxDat 0, .rxDat 0x7B, .sw 0x3FC], i.isInit = false) ∧
      performAll [.rxBrk 0, .rxDat 0, .rxDat 0x7B, .sw 0x3FC] r = .next t ∧ t.captureLog = [0x7B] :=
  ⟨_, _, rfl, by decide, rfl, rfl⟩

theorem witness_CapturesIgnoreTheCapturedValue :
    SameFrameState (mk 1 true .breakDetected 0 0x11) (mk 1 true .breakDetected 0 0x22) ∧
    ∃ s' t', performAll [.rxDat 0, .rxDat 0x7B] (mk 1 true .breakDetected 0 0x11) = .next s' ∧
      performAll [.rxDat 0, .rxDat 0x7B] (mk 1 true .breakDetected 0 0x22) = .next t' ∧ s'.captureLog = [0x7B] :=
  ⟨⟨rfl, rfl, rfl, rfl, rfl⟩, _, _, rfl, rfl, rfl⟩

/-- Counts 511 (no byte between) and 0, the new address 512. -/
theorem witness_RaisedAddressCapturesInThisFrame :
    (mk 3 true .receivingData 511 0).initialised = true ∧ (mk 3 true .receivingData 511 0).signalState = .receivingData ∧
    1023 - (0x1FF : Raw10).toNat ≤ 512 ∧
    (mk 3 true .receivingData 511 0).slotCounter.toNat + ([] : List Byte).length + 1 = 1023 - (0x1FF : Raw10).toNat ∧
    (mk 3 true .receivingData 0 0).slotCounter.toNat + [(0x11 : Byte)].length + 1 = 1023 - (0x3FD : Raw10).toNat := by
  decide

/-- The new address equal to the count, and one frame past it. -/
theorem witness_LoweredAddressMissesThisFrame :
    (mk 4 true .receivingData 2 0).initialised = true ∧ (mk 4 true .receivingData 2 0).signalState = .receivingData ∧
    1 ≤ 1023 - (0x3FD : Raw10).toNat ∧ 1023 - (0x3FD : Raw10).toNat ≤ 512 ∧
    1023 - (0x3FD : Raw10).toNat ≤ (mk 4 true .receivingData 2 0).slotCounter.toNat ∧
    (mk 4 true .receivingData 2 0).slotCounter.toNat + [(0x33 : Byte), 0x44].length <
      65536 + (1023 - (0x3FD : Raw10).toNat) := by decide

/-- The scenario of 95_test_vectors.md program P5. -/
theorem witness_ResumedFrameCountsFromTheStaleSlot :
    (mk 5 true .receivingData 2 0).initialised = true ∧ (mk 5 true .receivingData 2 0).signalState = .receivingData ∧
    1023 - (0x3FF : Raw10).toNat = 0 ∧ (∀ i ∈ [Instr.rxDat 3, .rxBrk 4], i.isRx = true) ∧
    1023 - (0x3FA : Raw10).toNat ≤ 512 ∧
    (mk 5 true .receivingData 2 0).slotCounter.toNat + [(0x05 : Byte), 0x06].length + 1 =
      1023 - (0x3FA : Raw10).toNat := by decide

theorem witness_RdValueReturnsTheCapturedValue : (mk 3 true .waitingForBreak 3 0x7B).initialised = true := by decide

theorem witness_RdValidReturnsTheIndicator :
    (mk 3 true .waitingForBreak 3 0x7B).initialised = true ∧ (mk 3 true .waitingForBreak 3 0x7B).Inv := by
  refine ⟨rfl, fun _ => ⟨.inr (by decide), ?_⟩⟩
  unfold State.IndicatorAgrees
  decide

theorem witness_ReadingFrame :
    Instr.rdValid.isRead = true ∧ ∃ t, exec .rdValid (mk 3 true .waitingForBreak 3 0x7B) = .next t :=
  ⟨rfl, _, rfl⟩

theorem witness_RunIsTheSameWithoutItsReads :
    ∃ t, performAll [.rdValue, .rxDat 0, .rdValid] (mk 3 true .breakDetected 3 0x7B) = .next t ∧
      t.readLog = [.value 0x7B, .valid true] := ⟨_, rfl, rfl⟩

end Sys2Proof.Tests
end

section
/-! PROOFS. CapturedValue against the captures made since an earlier state (10_state.md rule R28). -/

namespace Sys2Proof.Machine

/-- From `s` on some bytes were captured, and the last of them, or else the value `s` held, is `t`'s
CapturedValue (10_state.md rule R28). -/
def CapturedSince (s t : State) : Prop :=
  ∃ cs, t.captureLog = s.captureLog ++ cs ∧ t.capturedValue = cs.getLastD s.capturedValue

theorem CapturedSince.of_unchanged {s t : State} (hlog : t.captureLog = s.captureLog)
    (hvalue : t.capturedValue = s.capturedValue) : CapturedSince s t :=
  ⟨[], by simp [hlog], hvalue⟩

theorem CapturedSince.of_capture {s t : State} {v : Byte} (hlog : t.captureLog = s.captureLog ++ [v])
    (hvalue : t.capturedValue = v) : CapturedSince s t :=
  ⟨[v], hlog, hvalue⟩

theorem CapturedSince.trans {s t u : State} (hst : CapturedSince s t) (htu : CapturedSince t u) :
    CapturedSince s u := by
  obtain ⟨cs, hlog, hvalue⟩ := hst
  obtain ⟨ds, hlog', hvalue'⟩ := htu
  refine ⟨cs ++ ds, by rw [hlog', hlog, List.append_assoc], ?_⟩
  simp only [hvalue', hvalue, List.getLastD_eq_getLast?, List.getLast?_append, Option.getD_or]

/-- One received byte is captured, and is then CapturedValue, or both are left alone (rules R91 to R96). -/
theorem receive_capturedSince (ferr : Bool) (data : Byte) (s : State) :
    CapturedSince s (receive ferr data s) := by
  obtain ⟨_, e⟩ | ⟨_, _, e⟩ | ⟨_, _, _, e⟩ | ⟨_, _, _, _, e⟩ | ⟨_, _, _, _, e⟩ | ⟨_, _, _, _, e⟩ | ⟨_, _, _, _, e⟩ :=
    receive_cases ferr data s <;> rw [e]
  case inr.inr.inr.inr.inr.inl => exact .of_capture (v := data) (by simp) (by simp)
  all_goals exact .of_unchanged (by simp) (by simp)

/-- No operation but INIT writes CapturedValue other than by a capture. -/
theorem effectOf_capturedSince {i : Instr} (hi : i.isInit = false) (s : State) :
    CapturedSince s (effectOf i s) := by
  cases i with
  | rxDat data => exact receive_capturedSince false data s
  | rxBrk data => exact receive_capturedSince true data s
  | sw raw => exact .of_unchanged rfl rfl
  | rdValue => exact .of_unchanged rfl rfl
  | rdValid => exact .of_unchanged rfl rfl
  | init raw => cases hi

theorem performAll_capturedSince {is : List Instr} {s t : State} (his : ∀ i ∈ is, i.isInit = false)
    (h : performAll is s = .next t) : CapturedSince s t := by
  refine performAll_invariant (P := CapturedSince s) ?_ (.of_unchanged rfl rfl) h
  intro i hi u v hu huv
  obtain ⟨-, rfl⟩ := exec_eq_next.1 huv
  exact hu.trans (effectOf_capturedSince (his i hi) u)

theorem exec_initialised {i : Instr} {s t : State} (h : exec i s = .next t) : t.initialised = true := by
  obtain ⟨hperformed, rfl⟩ := exec_eq_next.1 h
  exact effectOf_initialised hperformed

theorem performAll_initialised {is : List Instr} {s t : State} (hs : s.initialised = true)
    (h : performAll is s = .next t) : t.initialised = true :=
  performAll_invariant (P := (·.initialised = true)) (fun _ _ _ _ _ huv => exec_initialised huv) hs h

theorem exec_rdValue_of_initialised {s : State} (h : s.initialised = true) :
    exec .rdValue s = .next (s.returnRead (.value s.capturedValue)) :=
  afterInit_of_initialised h

/-- Settles O40: being the last capture since the INIT is kept by every operation but INIT, and a run that
began with an INIT is initialised, so RD.VALUE answers. -/
theorem capturedValueIsTheMostRecentCapture : Obligations.CapturedValueIsTheMostRecentCapture := by
  intro raw is s r t hinit his hrun
  obtain ⟨cs, hlog, hvalue⟩ := performAll_capturedSince his hrun
  have hready : t.initialised = true := performAll_initialised (exec_initialised hinit) hrun
  refine ⟨cs, hlog, hvalue, t.valueOut_eq.trans hvalue, ?_⟩
  rw [← hvalue]
  exact exec_rdValue_of_initialised hready

end Sys2Proof.Machine
end

section
/-! PROOFS. Repeating an operation (20_memory.md rule R45): SW and the reads against RX. -/

namespace Sys2Proof.Machine

/-- Of two address writes only the later one shows. -/
@[simp] theorem State.setAddress_setAddress (s : State) (a b : SlotNumber) :
    (s.setAddress a).setAddress b = s.setAddress b := rfl

/-- A read's result joins the observation, not the registers (42_value_accessors.md rule R112). -/
@[simp] theorem State.returnRead_registers (s : State) (r : ReadResult) :
    (s.returnRead r).registers = s.registers := rfl

theorem recomputeAddress_idem (raw : Raw10) (s : State) :
    recomputeAddress raw (recomputeAddress raw s) = recomputeAddress raw s :=
  s.setAddress_setAddress _ _

theorem exec_sw_again {raw : Raw10} {s t : State} (h : exec (.sw raw) s = .next t) :
    exec (.sw raw) t = .next t := by
  have hready : t.initialised = true := exec_initialised h
  obtain ⟨-, rfl⟩ := exec_eq_next.1 h
  exact exec_eq_next.2 ⟨.inl hready, recomputeAddress_idem raw s⟩

/-- All that a performed read can do: return one result. -/
theorem exec_read_eq_returnRead {i : Instr} {s t : State} (hi : i.isRead = true) (h : exec i s = .next t) :
    ∃ r, t = s.returnRead r := by
  obtain ⟨-, rfl⟩ := exec_eq_next.1 h
  cases i with
  | rdValue => exact ⟨_, rfl⟩
  | rdValid => exact ⟨_, rfl⟩
  | _ => cases hi

section ReceivingData

variable {s : State} (data : Byte) (hinit : s.initialised = true)
  (ha : s.listeningAddress ≠ Config.addrInvalid) (hq : s.signalState = .receivingData)

include hinit ha hq

/-- A slot that is not the listened one is counted only (41_frame_synchronizer.md rule R96). -/
theorem exec_rxDat_count (hn : s.slotCounter + 1#16 ≠ s.listeningAddress) :
    exec (.rxDat data) s = .next (s.setSlotCounter (s.slotCounter + 1#16)) :=
  exec_eq_next.2 ⟨.inl hinit, receive_count ha hq hn⟩

/-- The listened slot is counted and captured, and ends the tracking (41_frame_synchronizer.md rule R96). -/
theorem exec_rxDat_capture (hn : s.slotCounter + 1#16 = s.listeningAddress) :
    exec (.rxDat data) s =
      .next (((s.setSlotCounter (s.slotCounter + 1#16)).capture data).setSignal .waitingForBreak) :=
  exec_eq_next.2 ⟨.inl hinit, receive_capture ha hq hn⟩

end ReceivingData

/-- In a frame, listening to slot 3, with `n` slots counted so far. -/
def awaitingSlotThree (n : SlotNumber) : State :=
  ((State.reset.setAddress 3).setSignal .receivingData).setSlotCounter n

theorem awaitingSlotThree_count {n : SlotNumber} (data : Byte) (hn : n + 1#16 ≠ 3) :
    exec (.rxDat data) (awaitingSlotThree n) = .next (awaitingSlotThree (n + 1#16)) :=
  exec_rxDat_count data rfl (by simp [awaitingSlotThree, Config.addrInvalid]) rfl hn

theorem awaitingSlotThree_capture (data : Byte) :
    exec (.rxDat data) (awaitingSlotThree 2) =
      .next (((awaitingSlotThree 3).capture data).setSignal .waitingForBreak) :=
  exec_rxDat_capture data rfl (by decide) rfl rfl

/-- Settles O28: SW writes a function of the switches alone, a read only returns its result, and with address
3 the second of two equal RX counts again from count 0 and captures from count 1. -/
theorem swAndReadsRepeatHarmlesslyRxDoesNot : Obligations.SwAndReadsRepeatHarmlesslyRxDoesNot := by
  refine ⟨fun raw s t => exec_sw_again, fun i s t hi h => ?_,
    ⟨0x7B, awaitingSlotThree 0, awaitingSlotThree 1, awaitingSlotThree 2, ?_, ?_, rfl, rfl, rfl⟩,
    ⟨0x7B, awaitingSlotThree 1, awaitingSlotThree 2, _, ?_, awaitingSlotThree_capture 0x7B, rfl, rfl⟩⟩
  · obtain ⟨r, rfl⟩ := exec_read_eq_returnRead hi h
    exact ⟨s.returnRead_registers r, s.returnRead_captureLog r⟩
  · exact awaitingSlotThree_count 0x7B (by decide)
  · exact awaitingSlotThree_count 0x7B (by decide)
  · exact awaitingSlotThree_count 0x7B (by decide)

end Sys2Proof.Machine
end

section
/-! PROOFS. The address decoder: the whole next state of SW (40_address_decoder.md rules R80 and R81), and what
SW and an invalid address leave alone (rule R84). -/

namespace Sys2Proof.Machine

theorem State.setAddress_of_ne {a : SlotNumber} (h : a ≠ Config.addrInvalid) (s : State) :
    s.setAddress a = { s with listeningAddress := a, indicatorState := true } := by
  rw [State.setAddress, indicatorOf_eq_true.2 h]

theorem State.setAddress_zero (s : State) :
    s.setAddress 0 = { s with listeningAddress := 0, indicatorState := false } := rfl

theorem ofNat_ne_addrInvalid {n : Nat} (h1 : 1 ≤ n) (h2 : n ≤ 512) :
    BitVec.ofNat 16 n ≠ Config.addrInvalid := by
  intro h
  have hn : n % 2 ^ 16 = 0 := by simpa [Config.addrInvalid] using congrArg BitVec.toNat h
  omega

theorem setAddress_addressOf_of_valid {raw : Raw10} (h1 : 1 ≤ 1023 - raw.toNat) (h2 : 1023 - raw.toNat ≤ 512)
    (s : State) : s.setAddress (addressOf raw) =
      { s with listeningAddress := BitVec.ofNat 16 (1023 - raw.toNat), indicatorState := true } := by
  rw [addressOf_of_valid h1 h2, State.setAddress_of_ne (ofNat_ne_addrInvalid h1 h2)]

theorem setAddress_addressOf_of_invalid {raw : Raw10} (h : 1023 - raw.toNat = 0 ∨ 513 ≤ 1023 - raw.toNat)
    (s : State) :
    s.setAddress (addressOf raw) = { s with listeningAddress := 0, indicatorState := false } := by
  rw [addressOf_of_invalid h, State.setAddress_zero]

theorem exec_sw_eq_next {raw : Raw10} {s t : State} :
    exec (.sw raw) s = .next t ↔ s.initialised = true ∧ s.setAddress (addressOf raw) = t :=
  afterInit_eq_next

/-- Settles O25: SW writes the validated address and its indicator as one update, and the validation keeps or
zeroes the assembled value by its range. -/
theorem swSetsAddressAndIndicator : Obligations.SwSetsAddressAndIndicator := by
  intro raw s hinit
  refine ⟨fun ⟨h1, h2⟩ => ?_, fun h => ?_⟩
  · exact exec_sw_eq_next.2 ⟨hinit, setAddress_addressOf_of_valid h1 h2 s⟩
  · exact exec_sw_eq_next.2 ⟨hinit, setAddress_addressOf_of_invalid h s⟩

/-- From `s` on nothing changed but the results returned by reads. -/
def OnlyReadSince (s t : State) : Prop := ∃ rs, t = { s with readLog := rs }

theorem OnlyReadSince.refl (s : State) : OnlyReadSince s s := ⟨s.readLog, rfl⟩

theorem OnlyReadSince.returnRead (s : State) (r : ReadResult) : OnlyReadSince s (s.returnRead r) := ⟨_, rfl⟩

theorem OnlyReadSince.trans {s t u : State} (hst : OnlyReadSince s t) (htu : OnlyReadSince t u) :
    OnlyReadSince s u := by
  obtain ⟨rs, rfl⟩ := hst
  obtain ⟨rs', rfl⟩ := htu
  exact ⟨rs', rfl⟩

theorem OnlyReadSince.listeningAddress {s t : State} (h : OnlyReadSince s t) :
    t.listeningAddress = s.listeningAddress := by
  obtain ⟨rs, rfl⟩ := h
  rfl

/-- A byte received at an invalid address changes nothing (41_frame_synchronizer.md rule R91). -/
theorem exec_rx_of_invalid {i : Instr} {s t : State} (ha : s.listeningAddress = Config.addrInvalid)
    (hi : i.isRx = true) (h : exec i s = .next t) : t = s := by
  obtain ⟨-, rfl⟩ := exec_eq_next.1 h
  cases i with
  | rxDat data => exact receive_of_invalid ha
  | rxBrk data => exact receive_of_invalid ha
  | _ => cases hi

theorem exec_onlyReadSince_of_invalid {i : Instr} {s t : State}
    (ha : s.listeningAddress = Config.addrInvalid) (hi : i.isRx = true ∨ i.isRead = true)
    (h : exec i s = .next t) : OnlyReadSince s t := by
  obtain hrx | hread := hi
  · rw [exec_rx_of_invalid ha hrx h]
    exact .refl s
  · obtain ⟨r, rfl⟩ := exec_read_eq_returnRead hread h
    exact .returnRead s r

/-- The address stays invalid throughout the sequence, so every byte in it is ignored. -/
theorem performAll_onlyReadSince_of_invalid {is : List Instr} {s t : State}
    (ha : s.listeningAddress = Config.addrInvalid) (his : ∀ i ∈ is, i.isRx = true ∨ i.isRead = true)
    (h : performAll is s = .next t) : OnlyReadSince s t := by
  refine performAll_invariant (P := OnlyReadSince s) ?_ (.refl s) h
  intro i hi u v hu huv
  exact hu.trans (exec_onlyReadSince_of_invalid (hu.listeningAddress.trans ha) (his i hi) huv)

/-- Settles O26: SW is one write of the address and the indicator, and from an invalid address bytes and reads
change nothing but the read results. -/
theorem swKeepsTheFrameState : Obligations.SwKeepsTheFrameState := by
  refine ⟨fun raw s t h => ?_, fun is s t ha his h => ?_⟩
  · obtain ⟨-, rfl⟩ := exec_sw_eq_next.1 h
    simp
  · obtain ⟨rs, rfl⟩ := performAll_onlyReadSince_of_invalid ha his h
    exact ⟨rfl, rfl⟩

end Sys2Proof.Machine
end

section
/-! PROOFS. Load-shedding (41_frame_synchronizer.md rule R91): at an invalid address every byte is ignored. -/

namespace Sys2Proof.Machine

variable {s : State}

/-- Packages the induction over a sequence in which no operation changes the state. -/
theorem performAll_eq_self {is : List Instr} (h : ∀ i ∈ is, exec i s = .next s) :
    performAll is s = .next s := by
  induction is with
  | nil => rfl
  | cons i is ih =>
    exact performAll_cons_eq_next.2 ⟨s, h i (.head is), ih fun j hj => h j (.tail i hj)⟩

/-- A byte at an invalid address completes and leaves the state as it is. -/
theorem exec_rx_eq_self_of_invalid {i : Instr} (hinit : s.initialised = true)
    (ha : s.listeningAddress = Config.addrInvalid) (hi : i.isRx = true) : exec i s = .next s := by
  have h : exec i s = .next (effectOf i s) := exec_eq_next.2 ⟨.inl hinit, rfl⟩
  rwa [exec_rx_of_invalid ha hi h] at h

theorem performAll_rx_eq_self_of_invalid {is : List Instr} (hinit : s.initialised = true)
    (ha : s.listeningAddress = Config.addrInvalid) (his : ∀ i ∈ is, i.isRx = true) :
    performAll is s = .next s :=
  performAll_eq_self fun i hi => exec_rx_eq_self_of_invalid hinit ha (his i hi)

/-- Settles O29: one byte at the invalid address leaves the whole state, its address too, as it is, so every
byte of a sequence does. -/
theorem invalidAddressIgnoresEveryByte : Obligations.InvalidAddressIgnoresEveryByte := by
  intro s hinit ha
  refine ⟨fun d => ⟨?_, ?_⟩, fun is his => performAll_rx_eq_self_of_invalid hinit ha his⟩
  · exact exec_rx_eq_self_of_invalid hinit ha rfl
  · exact exec_rx_eq_self_of_invalid hinit ha rfl

end Sys2Proof.Machine
end

section
/-! PROOFS. The frame synchronizer outside a frame: breaks, the start code, and the bytes of a dropped frame
(41_frame_synchronizer.md rules R92 to R95 and R97). -/

namespace Sys2Proof.Machine

/-- A sequence in two parts completes exactly through a state its first part leaves. -/
theorem performAll_append_eq_next {is js : List Instr} {s t : State} :
    performAll (is ++ js) s = .next t ↔ ∃ u, performAll is s = .next u ∧ performAll js u = .next t := by
  rw [performAll_append]
  exact andThen_eq_next

theorem isRx_of_mem_breaks {bs : List Byte} {i : Instr} (hi : i ∈ breaks bs) : i.isRx = true := by
  obtain ⟨b, -, rfl⟩ := List.mem_map.1 hi
  rfl

section ValidAddress

variable {s : State} (hinit : s.initialised = true) (ha : s.listeningAddress ≠ Config.addrInvalid)

include hinit ha

/-- A framing error is a break, whatever its data byte (41_frame_synchronizer.md rule R92). -/
theorem exec_rxBrk_break (data : Byte) : exec (.rxBrk data) s = .next (s.setSignal .breakDetected) :=
  exec_eq_next.2 ⟨.inl hinit, receive_break ha⟩

/-- A byte is discarded while waiting for a break (41_frame_synchronizer.md rule R93). -/
theorem exec_rxDat_waiting (data : Byte) (hq : s.signalState = .waitingForBreak) :
    exec (.rxDat data) s = .next s :=
  exec_eq_next.2 ⟨.inl hinit, receive_waiting ha hq⟩

/-- After a break the start code begins the count (41_frame_synchronizer.md rule R94). -/
theorem exec_rxDat_startCode (hq : s.signalState = .breakDetected) :
    exec (.rxDat Config.startCode) s = .next ((s.setSignal .receivingData).setSlotCounter 0#16) :=
  exec_eq_next.2 ⟨.inl hinit, receive_startCode ha hq⟩

/-- After a break any other byte drops the frame (41_frame_synchronizer.md rule R95). -/
theorem exec_rxDat_otherStartCode {data : Byte} (hq : s.signalState = .breakDetected)
    (hd : data ≠ Config.startCode) : exec (.rxDat data) s = .next (s.setSignal .waitingForBreak) :=
  exec_eq_next.2 ⟨.inl hinit, receive_otherStartCode ha hq hd⟩

/-- The bytes of a dropped frame change nothing. -/
theorem performAll_slots_waiting (ds : List Byte) (hq : s.signalState = .waitingForBreak) :
    performAll (slots ds) s = .next s := by
  refine performAll_eq_self fun i hi => ?_
  obtain ⟨d, -, rfl⟩ := List.mem_map.1 hi
  exact exec_rxDat_waiting hinit ha d hq

/-- After a break further breaks change nothing. -/
theorem performAll_breaks_eq_self (bs : List Byte) (hq : s.signalState = .breakDetected) :
    performAll (breaks bs) s = .next s := by
  have hagain : s.setSignal .breakDetected = s := by rw [← hq]; rfl
  refine performAll_eq_self fun i hi => ?_
  obtain ⟨b, -, rfl⟩ := List.mem_map.1 hi
  rw [exec_rxBrk_break hinit ha b, hagain]

/-- The first of a run of breaks decides, and the others leave its state (41_frame_synchronizer.md rule R97). -/
theorem performAll_breaks_cons (b : Byte) (bs : List Byte) :
    performAll (breaks (b :: bs)) s = .next (s.setSignal .breakDetected) :=
  performAll_cons_eq_next.2 ⟨_, exec_rxBrk_break hinit ha b,
    performAll_breaks_eq_self (s := s.setSignal .breakDetected) hinit ha bs rfl⟩

/-- The operation after a run of breaks runs as it would after one break. -/
theorem performAll_breaks_append_singleton (b : Byte) (bs : List Byte) {i : Instr} {t : State}
    (h : exec i (s.setSignal .breakDetected) = .next t) :
    performAll (breaks (b :: bs) ++ [i]) s = .next t :=
  performAll_append_eq_next.2
    ⟨_, performAll_breaks_cons hinit ha b bs, (performAll_singleton i _).trans h⟩

end ValidAddress

/-- Settles O33: the wrong start code goes back to WaitingForBreak, where every byte is discarded. -/
theorem otherStartCodeDropsTheFrame : Obligations.OtherStartCodeDropsTheFrame := by
  intro d es s hinit ha hq hd
  have hdrop : exec (.rxDat d) s = .next (s.setSignal .waitingForBreak) :=
    exec_rxDat_otherStartCode hinit ha hq hd
  have hrest : performAll (slots es) (s.setSignal .waitingForBreak) = .next (s.setSignal .waitingForBreak) :=
    performAll_slots_waiting (s := s.setSignal .waitingForBreak) hinit ha es rfl
  exact ⟨hdrop, performAll_cons_eq_next.2 ⟨_, hdrop, hrest⟩⟩

/-- Settles O36: with a valid address a run of breaks leaves BreakDetected, from which the next byte is judged
as the start code; at the invalid address breaks are bytes like any other. -/
theorem longBreakIsOneBreak : Obligations.LongBreakIsOneBreak := by
  intro b bs s hinit
  refine ⟨fun ha => ⟨performAll_breaks_cons hinit ha b bs, ?_, fun d hd => ?_⟩, fun ha => ?_⟩
  · exact performAll_breaks_append_singleton hinit ha b bs
      (exec_rxDat_startCode (s := s.setSignal .breakDetected) hinit ha rfl)
  · exact performAll_breaks_append_singleton hinit ha b bs
      (exec_rxDat_otherStartCode (s := s.setSignal .breakDetected) hinit ha rfl hd)
  · exact performAll_rx_eq_self_of_invalid hinit ha fun _ => isRx_of_mem_breaks

/-- Settles O30: a framing error at a valid address writes SignalState alone. -/
theorem breakEntersBreakDetected : Obligations.BreakEntersBreakDetected :=
  fun d _ hinit ha => exec_rxBrk_break hinit ha d

/-- Settles O31: waiting for a break, the engine discards a byte without framing error. -/
theorem bytesAreDiscardedWhileWaiting : Obligations.BytesAreDiscardedWhileWaiting :=
  fun d _ hinit ha hq => exec_rxDat_waiting hinit ha d hq

/-- Settles O32: 0x00 is the start code, which enters ReceivingData and zeroes the count. -/
theorem startCodeLocksAndZeroesTheCount : Obligations.StartCodeLocksAndZeroesTheCount :=
  fun _ hinit ha hq => exec_rxDat_startCode hinit ha hq

end Sys2Proof.Machine
end

section
/-! PROOFS. The value accessors (42_value_accessors.md rules R110 and R111). -/

namespace Sys2Proof.Machine

theorem exec_rdValid_of_initialised {s : State} (h : s.initialised = true) :
    exec .rdValid s = .next (s.returnRead (.valid s.indicatorState)) :=
  afterInit_of_initialised h

/-- The invariant's second half in an initialised state (10_state.md rule R30). -/
theorem State.Inv.indicatorState_eq {s : State} (hinv : s.Inv) (h : s.initialised = true) :
    s.indicatorState = decide (s.listeningAddress ≠ 0) := by
  obtain ⟨-, hagrees⟩ := hinv h
  exact Bool.eq_iff_iff.2 (hagrees.trans decide_eq_true_iff.symm)

/-- Settles O46: RD.VALUE's whole effect is to return CapturedValue. -/
theorem rdValueReturnsTheCapturedValue : Obligations.RdValueReturnsTheCapturedValue :=
  fun _ hinit => exec_rdValue_of_initialised hinit

/-- Settles O47: RD.VALID's whole effect is to return IndicatorState, which the invariant ties to the address. -/
theorem rdValidReturnsTheIndicator : Obligations.RdValidReturnsTheIndicator := by
  intro s hinit
  have hread : exec .rdValid s = .next (s.returnRead (.valid s.indicatorState)) :=
    exec_rdValid_of_initialised hinit
  refine ⟨hread, fun hinv => ?_⟩
  rw [← hinv.indicatorState_eq hinit]
  exact hread

end Sys2Proof.Machine
end

section
/-! PROOFS. The event word's round trip: one equation of the decoder per accepted pattern, and the reserved words
by arithmetic (30_encoding.md rules R65 to R71). -/

namespace Sys2Proof

section Patterns

variable {w : Word}

theorem decode_rxDat (hkind : wordField w 13 3 = 0b000) (hreserved : wordField w 9 4 = 0)
    (hferr : wordField w 8 1 = 0) : decode w = .ok (.rxDat (wordField w 0 8)) := by
  simp [decode, hkind, hreserved, hferr]

theorem decode_rxBrk (hkind : wordField w 13 3 = 0b000) (hreserved : wordField w 9 4 = 0)
    (hferr : wordField w 8 1 ≠ 0) : decode w = .ok (.rxBrk (wordField w 0 8)) := by
  rw [decode, if_pos hkind, if_neg (not_not.2 hreserved), if_neg hferr]

theorem decode_sw (hkind : wordField w 13 3 = 0b001) (hreserved : wordField w 10 3 = 0) :
    decode w = .ok (.sw (wordField w 0 10)) := by
  simp [decode, hkind, hreserved]

theorem decode_init (hkind : wordField w 13 3 = 0b100) (hreserved : wordField w 10 3 = 0) :
    decode w = .ok (.init (wordField w 0 10)) := by
  simp [decode, hkind, hreserved]

end Patterns

/-- A field has a value exactly when the word's digits there are that number. -/
theorem wordField_eq_iff {w : Word} {lo len : Nat} {v : BitVec len} :
    wordField w lo len = v ↔ w.toNat / 2 ^ lo % 2 ^ len = v.toNat := by
  rw [← BitVec.toNat_inj, wordField_toNat]

/-- Settles O2: each operation's word has its KIND, its reserved bits clear and its operand in place. -/
theorem decodeOfEncodeIsTheOperation : Obligations.DecodeOfEncodeIsTheOperation := by
  intro i
  cases i with
  | rxDat data =>
    have hword := encode_rxDat_toNat data
    have hreserved : wordField (encode (.rxDat data)) 9 4 = 0 := wordField_eq_iff.2 (by simp; omega)
    have hferr : wordField (encode (.rxDat data)) 8 1 = 0 := wordField_eq_iff.2 (by simp; omega)
    rw [decode_rxDat (Laws.KindField.rxDat data) hreserved hferr, wordField_encode_rxDat]
  | rxBrk data =>
    have hword := encode_rxBrk_toNat data
    have hreserved : wordField (encode (.rxBrk data)) 9 4 = 0 := wordField_eq_iff.2 (by simp; omega)
    have hferr : wordField (encode (.rxBrk data)) 8 1 ≠ 0 := fun h => by
      have hbit := wordField_eq_iff.1 h
      simp at hbit; omega
    rw [decode_rxBrk (Laws.KindField.rxBrk data) hreserved hferr, wordField_encode_rxBrk]
  | sw raw =>
    have hword := encode_sw_toNat raw
    have hreserved : wordField (encode (.sw raw)) 10 3 = 0 := wordField_eq_iff.2 (by simp; omega)
    rw [decode_sw (Laws.KindField.sw raw) hreserved, wordField_encode_sw]
  | rdValue => rfl
  | rdValid => rfl
  | init raw =>
    have hword := encode_init_toNat raw
    have hreserved : wordField (encode (.init raw)) 10 3 = 0 := wordField_eq_iff.2 (by simp; omega)
    rw [decode_init (Laws.KindField.init raw) hreserved, wordField_encode_init]

/-- The reserved words: an undefined KIND, or a reserved bit set under a defined one (30_encoding.md rule R69). -/
def ReservedWord (w : Word) : Prop :=
  5 ≤ w.toNat / 8192 ∨
    (w.toNat / 8192 = 0 ∧ w.toNat / 512 % 16 ≠ 0) ∨
    ((w.toNat / 8192 = 1 ∨ w.toNat / 8192 = 4) ∧ w.toNat / 1024 % 8 ≠ 0) ∨
    ((w.toNat / 8192 = 2 ∨ w.toNat / 8192 = 3) ∧ w.toNat % 8192 ≠ 0)

/-- No operation's word is reserved. -/
theorem not_reservedWord_encode (i : Instr) : ¬ ReservedWord (encode i) := by
  unfold ReservedWord
  cases i with
  | rxDat data => have := encode_rxDat_toNat data; omega
  | rxBrk data => have := encode_rxBrk_toNat data; omega
  | sw raw => have := encode_sw_toNat raw; omega
  | rdValue => decide
  | rdValid => decide
  | init raw => have := encode_init_toNat raw; omega

/-- All that the decoder answers: the operation whose word it is, or an error at a reserved word. -/
theorem decode_cases (w : Word) :
    (∃ i, decode w = .ok i ∧ w = encode i) ∨ (∃ why, decode w = .error why ∧ ReservedWord w) := by
  have hword := w.isLt
  unfold decode ReservedWord
  split_ifs with hrx hbits hferr hsw hbits hvalue hbits hvalid hbits hinit hbits <;>
    simp only [ne_eq, wordField_eq_iff, BitVec.toNat_ofNat, BitVec.ofNat_eq_ofNat] at *
  · exact .inr ⟨_, rfl, by omega⟩
  · exact .inl ⟨_, rfl, BitVec.eq_of_toNat_eq (by rw [encode_rxDat_toNat, wordField_toNat]; omega)⟩
  · exact .inl ⟨_, rfl, BitVec.eq_of_toNat_eq (by rw [encode_rxBrk_toNat, wordField_toNat]; omega)⟩
  · exact .inr ⟨_, rfl, by omega⟩
  · exact .inl ⟨_, rfl, BitVec.eq_of_toNat_eq (by rw [encode_sw_toNat, wordField_toNat]; omega)⟩
  · exact .inr ⟨_, rfl, by omega⟩
  · exact .inl ⟨_, rfl, BitVec.eq_of_toNat_eq (by simp only [encode, BitVec.toNat_ofNat]; omega)⟩
  · exact .inr ⟨_, rfl, by omega⟩
  · exact .inl ⟨_, rfl, BitVec.eq_of_toNat_eq (by simp only [encode, BitVec.toNat_ofNat]; omega)⟩
  · exact .inr ⟨_, rfl, by omega⟩
  · exact .inl ⟨_, rfl, BitVec.eq_of_toNat_eq (by rw [encode_init_toNat, wordField_toNat]; omega)⟩
  · exact .inr ⟨_, rfl, by omega⟩

/-- Settles O3: every answer of the decoder is read from its own word. -/
theorem acceptedWordIsItsOperationsWord : Obligations.AcceptedWordIsItsOperationsWord := by
  intro w i h
  obtain ⟨j, hj, hw⟩ | ⟨why, he, -⟩ := decode_cases w
  · rw [hj] at h
    cases h
    exact hw
  · rw [he] at h
    cases h

/-- Settles O4: an error comes at a reserved word only, and at a reserved word nothing else can, as no
operation has one. -/
theorem reservedWordsAreExactlyThese : Obligations.ReservedWordsAreExactlyThese := by
  intro w
  change (∃ why, decode w = .error why) ↔ ReservedWord w
  obtain ⟨i, hi, rfl⟩ | ⟨why, he, hreserved⟩ := decode_cases w
  · simp [hi, not_reservedWord_encode]
  · simp [he, hreserved]

end Sys2Proof
end

section
/-! PROOFS. The decoder's table, the assembler (30_encoding.md rules R72 and R73) and SignalState's codes
(10_state.md rule R26). -/

namespace Sys2Proof

/-- Settles O1: the decoder computes each word's row of the table. -/
theorem decodeReadsTheSpecsWords : Obligations.DecodeReadsTheSpecsWords :=
  ⟨rfl, rfl, rfl, rfl, rfl, rfl, rfl, rfl, rfl, rfl, rfl, rfl, rfl, rfl, rfl, rfl⟩

/-- An operand below a pattern's fixed bits joins them without a carry. -/
theorem eq_pattern_or_operand {w : Word} {pattern n k a : Nat} (hpattern : pattern = 2 ^ k * a)
    (hn : n < 2 ^ k) (hw : w.toNat = (pattern + n) % 2 ^ 16) :
    w = BitVec.ofNat 16 pattern ||| BitVec.ofNat 16 n := by
  rw [← BitVec.ofNat_or, hpattern, ← Nat.two_pow_add_eq_or_of_lt hn, ← hpattern]
  exact BitVec.eq_of_toNat_eq (hw.trans (BitVec.toNat_ofNat _ _).symm)

theorem encode_rxDat_ofNat {d : Nat} (hd : d ≤ 255) :
    encode (.rxDat (BitVec.ofNat 8 d)) = 0x0000#16 ||| BitVec.ofNat 16 d :=
  eq_pattern_or_operand (k := 8) (a := 0) rfl (by omega)
    (by rw [encode_rxDat_toNat, BitVec.toNat_ofNat]; omega)

theorem encode_rxBrk_ofNat {d : Nat} (hd : d ≤ 255) :
    encode (.rxBrk (BitVec.ofNat 8 d)) = 0x0100#16 ||| BitVec.ofNat 16 d :=
  eq_pattern_or_operand (k := 8) (a := 1) rfl (by omega)
    (by rw [encode_rxBrk_toNat, BitVec.toNat_ofNat]; omega)

theorem encode_sw_ofNat {r : Nat} (hr : r ≤ 1023) :
    encode (.sw (BitVec.ofNat 10 r)) = 0x2000#16 ||| BitVec.ofNat 16 r :=
  eq_pattern_or_operand (k := 10) (a := 8) rfl (by omega)
    (by rw [encode_sw_toNat, BitVec.toNat_ofNat]; omega)

theorem encode_init_ofNat {r : Nat} (hr : r ≤ 1023) :
    encode (.init (BitVec.ofNat 10 r)) = 0x8000#16 ||| BitVec.ofNat 16 r :=
  eq_pattern_or_operand (k := 10) (a := 32) rfl (by omega)
    (by rw [encode_init_toNat, BitVec.toNat_ofNat]; omega)

section Lines

variable {l : AsmLine}

theorem assemble_of_legal (h : l.wellFormed = true) : l.assemble = some (encode l.operation) := if_pos h

theorem assemble_of_illegal (h : l.wellFormed = false) : l.assemble = none := by
  simp [AsmLine.assemble, h]

theorem assemble_of_range {p : Prop} [Decidable p] {w : Word} (hrange : l.wellFormed = decide p)
    (hword : p → encode l.operation = w) : l.assemble = if p then some w else none := by
  by_cases h : p
  · rw [if_pos h, ← hword h]
    exact assemble_of_legal (hrange.trans (decide_eq_true h))
  · rw [if_neg h]
    exact assemble_of_illegal (hrange.trans (decide_eq_false h))

end Lines

section Programs

variable {p q : AsmProgram}

theorem assemble_seq_of_some {ws vs : List Word} (hp : p.assemble = some ws) (hq : q.assemble = some vs) :
    (AsmProgram.seq p q).assemble = some (ws ++ vs) := by
  simp [AsmProgram.assemble, hp, hq]

theorem assemble_seq_of_none (h : p.assemble = none ∨ q.assemble = none) :
    (AsmProgram.seq p q).assemble = none := by
  obtain hp | hq := h
  · simp [AsmProgram.assemble, hp]
  · simp [AsmProgram.assemble, hq]

theorem assemble_rep_of_some (k : Nat) {ws : List Word} (hp : p.assemble = some ws) :
    (AsmProgram.rep k p).assemble = some (List.replicate k ws).flatten := by
  simp [AsmProgram.assemble, hp]

theorem assemble_rep_of_none (k : Nat) (hp : p.assemble = none) : (AsmProgram.rep k p).assemble = none := by
  simp [AsmProgram.assemble, hp]

theorem assemble_line_of_some {l : AsmLine} {w : Word} (h : l.assemble = some w) :
    (AsmProgram.line l).assemble = some [w] := by
  simp [AsmProgram.assemble, h]

theorem assemble_line_of_none {l : AsmLine} (h : l.assemble = none) : (AsmProgram.line l).assemble = none := by
  simp [AsmProgram.assemble, h]

end Programs

/-- A legal program assembles, and to words of operations only. -/
theorem assemble_of_wellFormed {p : AsmProgram} (h : p.wellFormed = true) :
    ∃ ws, p.assemble = some ws ∧ ∀ w ∈ ws, ∃ i, decode w = .ok i := by
  induction p with
  | empty => exact ⟨[], rfl, by simp⟩
  | line l =>
    refine ⟨[encode l.operation], assemble_line_of_some (assemble_of_legal h), fun w hw => ?_⟩
    rw [List.mem_singleton.1 hw]
    exact ⟨l.operation, decodeOfEncodeIsTheOperation l.operation⟩
  | seq p q ihp ihq =>
    obtain ⟨hp, hq⟩ := Bool.and_eq_true_iff.1 h
    obtain ⟨ws, hws, hwords⟩ := ihp hp
    obtain ⟨vs, hvs, hwords'⟩ := ihq hq
    exact ⟨ws ++ vs, assemble_seq_of_some hws hvs, fun w hw =>
      (List.mem_append.1 hw).elim (hwords w) (hwords' w)⟩
  | rep k p ih =>
    obtain ⟨ws, hws, hwords⟩ := ih h
    refine ⟨_, assemble_rep_of_some k hws, fun w hw => ?_⟩
    obtain ⟨ws', hws', hw'⟩ := List.mem_flatten.1 hw
    rw [List.eq_of_mem_replicate hws'] at hw'
    exact hwords w hw'

/-- A bad line anywhere makes the whole program an assembly error. -/
theorem assemble_of_not_wellFormed {p : AsmProgram} (h : p.wellFormed = false) : p.assemble = none := by
  induction p with
  | empty => cases h
  | line l => exact assemble_line_of_none (assemble_of_illegal h)
  | seq p q ihp ihq => exact assemble_seq_of_none ((Bool.and_eq_false_iff.1 h).imp ihp ihq)
  | rep k p ih => exact assemble_rep_of_none k (ih h)

/-- Settles O6: a line is its range check and its operation's word, and a program is assembled part by part. -/
theorem legalProgramsAssembleToOperations : Obligations.LegalProgramsAssembleToOperations := by
  refine ⟨?_, ?_, ?_, rfl, rfl, ?_, ?_, ?_, rfl, fun _ _ => assemble_line_of_some,
    fun _ => assemble_line_of_none, fun _ _ _ _ => assemble_seq_of_some, fun _ _ => assemble_seq_of_none,
    fun k _ => assemble_rep_of_none k, fun _ => ⟨assemble_of_wellFormed, assemble_of_not_wellFormed⟩⟩
  · exact fun d => assemble_of_range rfl encode_rxDat_ofNat
  · exact fun d => assemble_of_range rfl encode_rxBrk_ofNat
  · exact fun r => assemble_of_range rfl encode_sw_ofNat
  · exact fun r => assemble_of_range rfl encode_init_ofNat
  · exact fun d hd => assemble_of_illegal (decide_eq_false (by omega))
  · exact fun n hn => ⟨assemble_of_illegal (decide_eq_false (by omega)),
      assemble_of_illegal (decide_eq_false (by omega))⟩

/-- Settles O7: each pseudo-instruction is legal with the line it stands for and has its operation. -/
theorem pseudoInstructionsExpand : Obligations.PseudoInstructionsExpand := by
  refine ⟨fun n hn => ?_, rfl, rfl, fun _ => rfl, fun k _ _ => assemble_rep_of_some k⟩
  have hn' : switchInRange n = true := decide_eq_true hn
  have hraw : switchInRange (1023 - n) = true := decide_eq_true (by omega)
  exact ⟨(assemble_of_legal (l := .setAddr n) hn').trans (assemble_of_legal (l := .sw (1023 - n)) hraw).symm,
    (assemble_of_legal (l := .initAddr n) hn').trans (assemble_of_legal (l := .init (1023 - n)) hraw).symm⟩

namespace Machine

theorem SignalState.ofCode_code (q : SignalState) : SignalState.ofCode q.code = some q := by
  cases q <;> rfl

/-- Settles O5: the three codes are given back, and of the four 2-bit codes only the last is none of them. -/
theorem signalStateCodesRoundTrip : Obligations.SignalStateCodesRoundTrip :=
  ⟨rfl, rfl, rfl, SignalState.ofCode_code, by decide, rfl⟩

end Machine

end Sys2Proof
end

section
/-! PROOFS. What every step keeps, and when a step goes on (10_state.md rule R30, 60_exceptions.md rule R120). -/

namespace Sys2Proof.Machine

section Sequences

variable {s : State}

/-- All that a sequence of operations can answer: a next state, or the refusal before the first INIT. -/
theorem performAll_cases (is : List Instr) (s : State) :
    (∃ t, performAll is s = .next t) ∨ (s.initialised = false ∧ performAll is s = .refused .beforeInit) := by
  induction is generalizing s with
  | nil => exact .inl ⟨s, rfl⟩
  | cons i is ih =>
    obtain ⟨-, e⟩ | ⟨hs, -, e⟩ := exec_cases i s
    · obtain ⟨t, ht⟩ | ⟨hu, -⟩ := ih (effectOf i s)
      · exact .inl ⟨t, performAll_cons_eq_next.2 ⟨_, e, ht⟩⟩
      · rw [exec_initialised e] at hu
        cases hu
    · exact .inr ⟨hs, by simp [performAll, e, andThen]⟩

/-- After an INIT every sequence of operations completes. -/
theorem performAll_completes (is : List Instr) (hs : s.initialised = true) : ∃ t, performAll is s = .next t := by
  obtain h | ⟨hs', -⟩ := performAll_cases is s
  · exact h
  · rw [hs] at hs'
    cases hs'

/-- Before the first INIT a sequence without INIT completes only if it is empty. -/
theorem eq_nil_of_performAll_eq_next {is : List Instr} {t : State} (hs : s.initialised = false)
    (his : ∀ i ∈ is, i.isInit = false) (h : performAll is s = .next t) : is = [] := by
  cases is with
  | nil => rfl
  | cons i is =>
    obtain ⟨u, hu, -⟩ := performAll_cons_eq_next.1 h
    obtain ⟨hperformed, -⟩ := exec_eq_next.1 hu
    simp [hs, his i (.head is)] at hperformed

end Sequences

section Inputs

variable {s t : State} {inp : Input}

theorem performInput_edge (e : Edge) (s : State) : performInput (.edge e) s = performAll e.operations s := rfl

/-- An input is refused as a reserved word, or it is a sequence of operations. -/
theorem performInput_cases (inp : Input) (s : State) :
    (∃ w why, inp = .word w ∧ decode w = .error why ∧
      performInput inp s = .refused (.reservedWord w why)) ∨
    ∃ is, performInput inp s = performAll is s := by
  cases inp with
  | word w =>
    cases hw : decode w with
    | ok i => exact .inr ⟨[i], (performInput_word_ok hw s).trans (performAll_singleton i s).symm⟩
    | error why => exact .inl ⟨w, why, rfl, hw, performInput_word_reserved hw s⟩
  | edge e => exact .inr ⟨e.operations, performInput_edge e s⟩

/-- What a completed step did: some operations, on the state whose input has moved on. -/
theorem exists_performAll_of_step (h : step s = .next t) :
    ∃ is rest, performAll is (s.setInputs rest) = .next t := by
  obtain ⟨hnil, e⟩ | ⟨inp, rest, -, e⟩ := step_cases s
  · refine ⟨[], [], ?_⟩
    rw [← h, e, ← hnil]
    rfl
  · obtain ⟨w, why, -, -, e'⟩ | ⟨is, e'⟩ := performInput_cases inp (s.setInputs rest)
    · rw [e, e'] at h
      cases h
    · exact ⟨is, rest, by rw [← e', ← e, h]⟩

end Inputs

section Invariant

/-- The invariant reads no more than the address, the indicator and whether an INIT has been performed. -/
theorem State.Inv.of_address_unchanged {s t : State} (hinv : s.Inv)
    (haddress : t.listeningAddress = s.listeningAddress) (hindicator : t.indicatorState = s.indicatorState)
    (hinit : t.initialised = s.initialised) : t.Inv := by
  unfold State.Inv State.AddressLegal State.IndicatorAgrees at *
  rwa [haddress, hindicator, hinit]

/-- The validation and the indicator give the invariant to the state an address recompute leaves. -/
theorem State.Inv.of_recomputed {t : State} (raw : Raw10) (haddress : t.listeningAddress = addressOf raw)
    (hindicator : t.indicatorState = indicatorOf (addressOf raw)) : t.Inv := by
  refine fun _ => ⟨?_, ?_⟩
  · unfold State.AddressLegal
    rw [haddress]
    exact addressOf_legal raw
  · unfold State.IndicatorAgrees
    rw [haddress, hindicator]
    exact indicatorOf_eq_true

theorem effectOf_keeps_inv (i : Instr) {s : State} (hinv : s.Inv) : (effectOf i s).Inv := by
  cases i with
  | rxDat data =>
    obtain ⟨haddress, hindicator, hinit, -⟩ := receive_frame false data s
    exact hinv.of_address_unchanged haddress hindicator hinit
  | rxBrk data =>
    obtain ⟨haddress, hindicator, hinit, -⟩ := receive_frame true data s
    exact hinv.of_address_unchanged haddress hindicator hinit
  | sw raw => exact .of_recomputed raw rfl rfl
  | rdValue => exact hinv.of_address_unchanged rfl rfl rfl
  | rdValid => exact hinv.of_address_unchanged rfl rfl rfl
  | init raw => exact .of_recomputed raw rfl rfl

theorem performAll_keeps_inv {is : List Instr} {s t : State} (hinv : s.Inv) (h : performAll is s = .next t) :
    t.Inv := by
  refine performAll_invariant (P := State.Inv) (fun i _ u v hu huv => ?_) hinv h
  obtain ⟨-, rfl⟩ := exec_eq_next.1 huv
  exact effectOf_keeps_inv i hu

/-- Settles O21: a step is a sequence of operations; SW and INIT write a validated address with its indicator,
and no other operation writes either. -/
theorem addressAndIndicatorStayLegal : Obligations.AddressAndIndicatorStayLegal := by
  intro s t hinv h
  obtain ⟨is, rest, hrun⟩ := exists_performAll_of_step h
  exact performAll_keeps_inv (s := s.setInputs rest) hinv hrun

/-- Settles O22: at reset the address is the recompute of the open switches. -/
theorem addressAndIndicatorLegalAtReset : Obligations.AddressAndIndicatorLegalAtReset :=
  State.Inv.of_recomputed Config.resetRaw10 rfl rfl

end Invariant

section Stepping

variable {s : State}

theorem step_of_inputs_nil (h : s.inputs = []) : step s = .next s := by
  rw [step, takeInput_nil h]

theorem step_of_inputs_cons {inp : Input} {rest : List Input} (h : s.inputs = inp :: rest) :
    step s = performInput inp (s.setInputs rest) :=
  step_eq_of_takeInput (takeInput_cons h)

/-- Settles O8: the word is taken from the input, decoded and performed. -/
theorem stepPerformsTheDecodedWord : Obligations.StepPerformsTheDecodedWord :=
  fun _ _ _ _ hs hw => (step_of_inputs_cons hs).trans (performInput_word_ok hw _)

/-- Settles O9: the refusal carries the word and the decoder's reason. -/
theorem stepRefusesAReservedWord : Obligations.StepRefusesAReservedWord :=
  fun _ _ _ _ hs hw => (step_of_inputs_cons hs).trans (performInput_word_reserved hw _)

/-- With `rst` low an edge carries no INIT. -/
theorem isInit_of_mem_operations {e : Edge} (hrst : e.rst = false) {i : Instr} (hi : i ∈ e.operations) :
    i.isInit = false := by
  simp only [Edge.operations, Edge.reads, Edge.rx, hrst, Bool.false_eq_true, if_false, List.mem_append] at hi
  obtain ((h | h) | h) | h := hi <;> split at h <;> simp at h
  · rw [h]; rfl
  · rw [h]; rfl
  · rw [h]; split <;> rfl
  · rw [h]; rfl

/-- An edge with `rst` low carries no operation exactly when no strobe is asserted. -/
theorem operations_eq_nil_iff {e : Edge} (hrst : e.rst = false) : e.operations = [] ↔
    e.rxValid = false ∧ e.swChange = false ∧ e.sampleValue = false ∧ e.sampleValid = false := by
  simp [Edge.operations, Edge.reads, hrst]
  tauto

theorem operations_of_rst {e : Edge} (hrst : e.rst = true) : e.operations = [.init e.raw] := if_pos hrst

/-- Settles O10: such an edge carries no operation, and taking it from the input is all the step does. -/
theorem idleCycleChangesNothing : Obligations.IdleCycleChangesNothing := by
  refine fun s => ⟨step_of_inputs_nil, fun e rest hs hrst hrx hsw hvalue hvalid => ?_⟩
  have hquiet : e.operations = [] := (operations_eq_nil_iff hrst).2 ⟨hrx, hsw, hvalue, hvalid⟩
  rw [step_of_inputs_cons hs, performInput_edge, hquiet]
  rfl

/-- Settles O11: the edge's one operation is INIT of the ports' snapshot. -/
theorem resetEdgeIsInitAlone : Obligations.ResetEdgeIsInitAlone := by
  intro s e rest hs hrst
  rw [step_of_inputs_cons hs, performInput_edge, operations_of_rst hrst, performAll_singleton]
  rfl

/-- An edge completes after an INIT, as an INIT, or as no operation. -/
theorem edge_completes_iff (e : Edge) (s : State) : (∃ t, performAll e.operations s = .next t) ↔
    s.initialised = true ∨ e.rst = true ∨
      (e.rxValid = false ∧ e.swChange = false ∧ e.sampleValue = false ∧ e.sampleValid = false) := by
  cases hs : s.initialised
  case true => simp [performAll_completes e.operations hs]
  cases hrst : e.rst
  case true =>
    rw [operations_of_rst hrst, performAll_singleton, exec_init]
    simp
  rw [← operations_eq_nil_iff hrst]
  simp only [Bool.false_eq_true, false_or]
  constructor
  · rintro ⟨t, h⟩
    exact eq_nil_of_performAll_eq_next hs (fun i => isInit_of_mem_operations hrst) h
  · intro h
    exact ⟨s, by rw [h]; rfl⟩

/-- A word completes when it is an operation's, after an INIT or as an INIT. -/
theorem word_completes_iff (w : Word) (s : State) : (∃ t, performInput (.word w) s = .next t) ↔
    ∃ i, decode w = .ok i ∧ (s.initialised = true ∨ i.isInit = true) := by
  cases hw : decode w with
  | ok i => simp [performInput_word_ok hw, exec_eq_next]
  | error why => simp [performInput_word_reserved hw]

/-- Settles O15: no input, a word and an edge each complete under what `State.Ready` asks of them. -/
theorem stepGoesOnExactlyWhenReady : Obligations.StepGoesOnExactlyWhenReady := by
  intro s
  unfold State.Ready
  cases hs : s.inputs with
  | nil => simp [step_of_inputs_nil hs]
  | cons inp rest =>
    rw [step_of_inputs_cons hs]
    cases inp with
    | word w => exact word_completes_iff w (s.setInputs rest)
    | edge e => exact edge_completes_iff e (s.setInputs rest)

/-- Settles O16: a step answers what its input's operations answer, or refuses its reserved word. -/
theorem stepNeverFaultsAndRefusesTwoThings : Obligations.StepNeverFaultsAndRefusesTwoThings := by
  refine fun s => ⟨(nomatch ·), fun why h => ?_⟩
  obtain ⟨-, e⟩ | ⟨inp, rest, hs, e⟩ := step_cases s <;> rw [e] at h
  · cases h
  obtain ⟨w, r, rfl, hw, e'⟩ | ⟨is, e'⟩ := performInput_cases inp (s.setInputs rest) <;> rw [e'] at h
  · cases h
    exact .inl ⟨w, rest, r, hs, hw, rfl⟩
  · obtain ⟨t, ht⟩ | ⟨hinit, hrefused⟩ := performAll_cases is (s.setInputs rest)
    · rw [ht] at h
      cases h
    · rw [hrefused] at h
      cases h
      exact .inr ⟨hinit, rfl⟩

/-- Settles O17: an operation that is not performed has answered the refusal. -/
theorem onlyInitRunsBeforeTheFirstInit : Obligations.OnlyInitRunsBeforeTheFirstInit := by
  intro i s hs hi
  obtain ⟨hperformed, -⟩ | ⟨-, -, e⟩ := exec_cases i s
  · simp [hs, hi] at hperformed
  · exact e

/-- Settles O24: after an INIT every operation has its effect, which is again initialised. -/
theorem everyOperationCompletesAfterInit : Obligations.EveryOperationCompletesAfterInit :=
  fun i s hs => ⟨effectOf i s, exec_eq_next.2 ⟨.inl hs, rfl⟩, effectOf_initialised (.inl hs), effectOf_inputs i s⟩

end Stepping

end Sys2Proof.Machine
end

section
/-! PROOFS. One clock edge: its operations against an event word's, and their order (30_encoding.md rules R62 and
R65, 60_exceptions.md rule R123). -/

namespace Sys2Proof.Machine

/-- The switch groups of a snapshot are assembled to it again (30_encoding.md rule R62). -/
theorem rawSnapshot_groups (raw : Raw10) : rawSnapshot (raw.extractLsb' 4 6) (raw.extractLsb' 0 4) = raw := by
  rw [rawSnapshot, BitVec.extractLsb'_append_extractLsb'_eq_extractLsb' (by rfl)]
  exact BitVec.extractLsb'_eq_self

/-- The port activity of an operation carries that operation alone. -/
theorem operations_carrying (b : Edge) (i : Instr) : (b.carrying i).operations = [i] := by
  cases i with
  | sw raw => exact congrArg (fun r => [Instr.sw r]) (rawSnapshot_groups raw)
  | init raw => exact congrArg (fun r => [Instr.init r]) (rawSnapshot_groups raw)
  | _ => rfl

/-- Settles O13: the edge carries the operation alone, and the word decodes to it. -/
theorem wordAndItsPortActivityAgree : Obligations.WordAndItsPortActivityAgree := by
  intro b i s rest
  rw [step_of_inputs_cons rfl, step_of_inputs_cons rfl, performInput_edge, operations_carrying,
    performAll_singleton, performInput_word_ok (decodeOfEncodeIsTheOperation i)]
  rfl

/-- The assembled value with the switch groups in their places: group A lowest (30_encoding.md rule R63). -/
theorem assembled_rawSnapshot (b : GroupB) (a : GroupA) :
    1023 - (rawSnapshot b a).toNat = 16 * (63 - b.toNat) + (15 - a.toNat) := by
  have ha := a.isLt
  have hb := b.isLt
  have hraw : (rawSnapshot b a).toNat = 2 ^ 4 * b.toNat + a.toNat := by
    rw [rawSnapshot, BitVec.toNat_append, ← Nat.shiftLeft_add_eq_or_of_lt ha, Nat.shiftLeft_eq, Nat.mul_comm]
  omega

end Sys2Proof.Machine
end

section
/-! PROOFS. The registers a received byte's effect depends on: not CapturedValue, not the history, not the input
(10_state.md section 5, the column of reads). -/

namespace Sys2Proof.Machine

/-- The state with other values where no received byte reads: CapturedValue, the two logs and the input. -/
def State.withOutputs (s : State) (v : Byte) (rs : List ReadResult) (cs : List Byte) (inps : List Input) : State :=
  { s with capturedValue := v, readLog := rs, captureLog := cs, inputs := inps }

/-- A byte does the same to the frame whatever the outputs were, and captures the same: itself or nothing. -/
theorem receive_withOutputs (ferr : Bool) (data : Byte) (s : State) : ∃ ds : List Byte, ∀ v rs cs inps,
    receive ferr data (s.withOutputs v rs cs inps) =
      (receive ferr data s).withOutputs (ds.getLastD v) rs (cs ++ ds) inps := by
  obtain ⟨h, e⟩ | ⟨h, rfl, e⟩ | ⟨h, rfl, hq, e⟩ | ⟨h, rfl, hq, rfl, e⟩ | ⟨h, rfl, hq, hd, e⟩ | ⟨h, rfl, hq, hn, e⟩ |
      ⟨h, rfl, hq, hn, e⟩ := receive_cases ferr data s <;> rw [e]
  case inr.inr.inr.inr.inr.inl => exact ⟨[data], fun v rs cs inps => receive_capture h hq hn⟩
  all_goals
    refine ⟨[], fun v rs cs inps => ?_⟩
    rw [List.append_nil]
  · exact receive_of_invalid h
  · exact receive_break h
  · exact receive_waiting h hq
  · exact receive_startCode h hq
  · exact receive_otherStartCode h hq hd
  · exact receive_count h hq hn

/-- A byte only adds to the history, so a longer past stays before what it adds. -/
theorem receive_withHistory (ferr : Bool) (data : Byte) (s : State) (rs : List ReadResult) (cs : List Byte)
    (inps : List Input) :
    receive ferr data (s.withOutputs s.capturedValue rs (cs ++ s.captureLog) inps) =
      (receive ferr data s).withOutputs (receive ferr data s).capturedValue rs
        (cs ++ (receive ferr data s).captureLog) inps := by
  obtain ⟨ds, h⟩ := receive_withOutputs ferr data s
  have hown := h s.capturedValue s.readLog s.captureLog s.inputs
  have hvalue : (receive ferr data s).capturedValue = ds.getLastD s.capturedValue :=
    congrArg State.capturedValue hown
  have hlog : (receive ferr data s).captureLog = s.captureLog ++ ds := congrArg State.captureLog hown
  rw [h, hvalue, hlog, List.append_assoc]

theorem receive_withReadLog (ferr : Bool) (data : Byte) (s : State) (rs : List ReadResult) :
    receive ferr data { s with readLog := rs } = { receive ferr data s with readLog := rs } := by
  obtain ⟨-, -, -, -, hinputs⟩ := receive_frame ferr data s
  refine (receive_withHistory ferr data s rs [] s.inputs).trans ?_
  rw [← hinputs]
  rfl

end Sys2Proof.Machine
end

section
/-! PROOFS. The order of one edge's operations (60_exceptions.md rule R123). -/

namespace Sys2Proof.Machine

/-- The edge's reads, performed. -/
def Edge.sampled (e : Edge) (s : State) : State :=
  { s with readLog := s.readLog ++ (if e.sampleValue then [.value s.capturedValue] else []) ++
      (if e.sampleValid then [.valid s.indicatorState] else []) }

/-- The edge's byte, received. -/
def Edge.received (e : Edge) (s : State) : State := if e.rxValid then receive e.rxFerr e.rxData s else s

/-- The edge's switch change, recomputed. -/
def Edge.recomputed (e : Edge) (s : State) : State := if e.swChange then recomputeAddress e.raw s else s

theorem exec_rx (e : Edge) {s : State} (hs : s.initialised = true) :
    exec e.rx s = .next (receive e.rxFerr e.rxData s) := by
  unfold Edge.rx
  cases e.rxFerr
  · exact exec_eq_next.2 ⟨.inl hs, rfl⟩
  · exact exec_eq_next.2 ⟨.inl hs, rfl⟩

theorem performAll_reads (e : Edge) {s : State} (hs : s.initialised = true) :
    performAll e.reads s = .next (e.sampled s) := by
  have hvalue : exec .rdValue s = .next (s.returnRead (.value s.capturedValue)) := exec_rdValue_of_initialised hs
  have hvalid (rs : List ReadResult) : exec .rdValid { s with readLog := rs } =
      .next { s with readLog := rs ++ [.valid s.indicatorState] } := exec_rdValid_of_initialised hs
  unfold Edge.reads Edge.sampled
  cases e.sampleValue <;> cases e.sampleValid <;>
    simp only [List.append_nil, List.nil_append, reduceIte, Bool.false_eq_true]
  · rfl
  · exact (performAll_singleton _ s).trans (hvalid s.readLog)
  · exact (performAll_singleton _ s).trans hvalue
  · exact performAll_cons_eq_next.2 ⟨_, hvalue, (performAll_singleton _ _).trans (hvalid _)⟩

theorem Edge.received_frame (e : Edge) (s : State) :
    (e.received s).listeningAddress = s.listeningAddress ∧ (e.received s).indicatorState = s.indicatorState ∧
      (e.received s).initialised = s.initialised := by
  obtain ⟨haddress, hindicator, hinit, -⟩ := receive_frame e.rxFerr e.rxData s
  unfold Edge.received
  split
  · exact ⟨haddress, hindicator, hinit⟩
  · exact ⟨rfl, rfl, rfl⟩

theorem Edge.recomputed_frame (e : Edge) (s : State) :
    (e.recomputed s).signalState = s.signalState ∧ (e.recomputed s).slotCounter = s.slotCounter ∧
      (e.recomputed s).capturedValue = s.capturedValue ∧ (e.recomputed s).captureLog = s.captureLog ∧
      (e.recomputed s).initialised = s.initialised ∧ (e.recomputed s).readLog = s.readLog ∧
      (e.recomputed s).inputs = s.inputs := by
  unfold Edge.recomputed
  split
  · exact ⟨rfl, rfl, rfl, rfl, rfl, rfl, rfl⟩
  · exact ⟨rfl, rfl, rfl, rfl, rfl, rfl, rfl⟩

/-- The serial order of an edge without `rst`: the reads, then RX, then SW. -/
theorem performAll_operations {e : Edge} {s : State} (hs : s.initialised = true) (hrst : e.rst = false) :
    performAll e.operations s = .next (e.recomputed (e.received (e.sampled s))) := by
  have hrx : performAll (if e.rxValid then [e.rx] else []) (e.sampled s) = .next (e.received (e.sampled s)) := by
    unfold Edge.received
    cases e.rxValid
    · rfl
    · exact (performAll_singleton _ _).trans (exec_rx e (s := e.sampled s) hs)
  have hready : (e.received (e.sampled s)).initialised = true := by
    obtain ⟨-, -, hinit⟩ := e.received_frame (e.sampled s)
    exact hinit.trans hs
  have hsw : performAll (if e.swChange then [.sw e.raw] else []) (e.received (e.sampled s)) =
      .next (e.recomputed (e.received (e.sampled s))) := by
    unfold Edge.recomputed
    cases e.swChange
    · rfl
    · exact (performAll_singleton _ _).trans (exec_sw_eq_next.2 ⟨hready, rfl⟩)
  rw [Edge.operations, if_neg (by simp [hrst])]
  exact performAll_append_eq_next.2 ⟨_, performAll_append_eq_next.2 ⟨_, performAll_reads e hs, hrx⟩, hsw⟩

/-- The byte is received as if the edge had not been taken from the input and nothing been read on it. -/
theorem Edge.received_sampled (e : Edge) (s : State) (rest : List Input) :
    e.received (e.sampled (s.setInputs rest)) =
      { e.received s with readLog := (e.sampled s).readLog, inputs := rest } := by
  unfold Edge.received
  split
  · exact receive_withHistory e.rxFerr e.rxData s (e.sampled s).readLog [] rest
  · rfl

theorem step_edge {s : State} {e : Edge} {rest : List Input} (hs : s.initialised = true)
    (hinputs : s.inputs = .edge e :: rest) (hrst : e.rst = false) :
    step s = .next (e.recomputed { e.received s with readLog := (e.sampled s).readLog, inputs := rest }) := by
  rw [step_of_inputs_cons hinputs, performInput_edge, ← e.received_sampled]
  exact performAll_operations (s := s.setInputs rest) hs hrst

/-- Settles O12: the reads write only their log, RX leaves the address to SW, and SW leaves the rest to RX. -/
theorem edgeReadsThenReceivesThenRecomputes : Obligations.EdgeReadsThenReceivesThenRecomputes := by
  intro s e rest hs hinputs hrst
  obtain ⟨haddress, hindicator, hinit⟩ := e.received_frame s
  obtain ⟨hsignal, hcount, hvalue, hlog, hinit', hreads, hrest⟩ :=
    e.recomputed_frame { e.received s with readLog := (e.sampled s).readLog, inputs := rest }
  refine ⟨_, step_edge hs hinputs hrst, hinit'.trans (hinit.trans hs), hrest, hreads, ?_, ?_⟩
  · unfold Edge.recomputed
    cases e.swChange
    · exact ⟨haddress, hindicator⟩
    · exact ⟨_, exec_sw_eq_next.2 ⟨hs, rfl⟩, rfl, rfl⟩
  · rw [hsignal, hcount, hvalue, hlog]
    unfold Edge.received
    cases e.rxValid
    · exact ⟨rfl, rfl, rfl, rfl⟩
    · exact ⟨_, exec_rx e hs, rfl, rfl, rfl, rfl⟩

/-- Settles O14: SW is the edge's one operation, and its snapshot assembles to the groups in their places. -/
theorem switchGroupsFillTheirBits : Obligations.SwitchGroupsFillTheirBits := by
  intro s e rest hs hinputs hrst hrx hvalue hvalid hsw
  have hstep : step s = .next ((s.setInputs rest).setAddress (addressOf e.raw)) := by
    rw [step_edge hs hinputs hrst]
    simp only [Edge.recomputed, Edge.received, Edge.sampled, hrx, hvalue, hvalid, hsw, reduceIte,
      Bool.false_eq_true, List.append_nil]
    rfl
  rw [← assembled_rawSnapshot, hstep]
  refine ⟨fun ⟨h1, h2⟩ => ?_, fun h => ?_⟩
  · exact congrArg Host.Outcome.next (setAddress_addressOf_of_valid (raw := e.raw) h1 h2 (s.setInputs rest))
  · exact congrArg Host.Outcome.next (setAddress_addressOf_of_invalid (raw := e.raw) h (s.setInputs rest))

end Sys2Proof.Machine
end

section
/-! PROOFS. INIT's registers, and the run after it (70_reset_and_hazards.md rules R140 and R142). -/

namespace Sys2Proof.Machine

/-- Settles O18: INIT writes the validated address with its indicator, and a fixed value to every other register. -/
theorem initSetsEveryRegister : Obligations.InitSetsEveryRegister := by
  intro raw s
  refine ⟨fun ⟨h1, h2⟩ => ?_, fun h => ?_⟩
  · rw [exec_init, initialise, setAddress_addressOf_of_valid h1 h2]
    rfl
  · rw [exec_init, initialise, setAddress_addressOf_of_invalid h]
    rfl

/-- Settles O19: the open switches assemble to 0, which INIT takes as invalid. -/
theorem resetIsInitWithOpenSwitches : Obligations.ResetIsInitWithOpenSwitches := by
  intro s
  obtain ⟨-, hinvalid⟩ := initSetsEveryRegister 0x3FF s
  exact hinvalid (.inl rfl)

/-- `s` with `h`'s history before its own, and `h`'s input. -/
def State.withPast (s h : State) : State :=
  s.withOutputs s.capturedValue (h.readLog ++ s.readLog) (h.captureLog ++ s.captureLog) h.inputs

theorem receive_withPast (ferr : Bool) (data : Byte) (s h : State) :
    receive ferr data (s.withPast h) = (receive ferr data s).withPast h := by
  obtain ⟨-, -, -, hreads, -⟩ := receive_frame ferr data s
  refine (receive_withHistory ferr data s (h.readLog ++ s.readLog) h.captureLog h.inputs).trans ?_
  rw [State.withPast, hreads]

theorem returnRead_withPast (r : ReadResult) (s h : State) :
    (s.withPast h).returnRead r = (s.returnRead r).withPast h := by
  simp [State.withPast, State.withOutputs, State.returnRead]

/-- An operation adds to the history and does not read it. -/
theorem effectOf_withPast (i : Instr) (s h : State) : effectOf i (s.withPast h) = (effectOf i s).withPast h := by
  cases i with
  | rxDat data => exact receive_withPast false data s h
  | rxBrk data => exact receive_withPast true data s h
  | sw raw => rfl
  | rdValue => exact returnRead_withPast _ s h
  | rdValid => exact returnRead_withPast _ s h
  | init raw => rfl

theorem performAll_withPast {is : List Instr} {s t : State} (h : State) (hrun : performAll is s = .next t) :
    performAll is (s.withPast h) = .next (t.withPast h) := by
  induction is generalizing s with
  | nil => cases hrun; rfl
  | cons i is ih =>
    obtain ⟨u, hu, hrest⟩ := performAll_cons_eq_next.1 hrun
    obtain ⟨hperformed, rfl⟩ := exec_eq_next.1 hu
    exact performAll_cons_eq_next.2 ⟨_, exec_eq_next.2 ⟨hperformed, effectOf_withPast i s h⟩, ih hrest⟩

/-- INIT leaves nothing of the state before it but the past. -/
theorem initialise_eq_withPast (raw : Raw10) (s : State) :
    initialise raw s = (initialise raw State.reset).withPast s := by
  change initialise raw s = (initialise raw s).withOutputs Config.capturedValueReset (s.readLog ++ [])
    (s.captureLog ++ []) s.inputs
  rw [List.append_nil, List.append_nil]
  rfl

/-- Settles O20: the run after an INIT is one run, the same from every state, with that state's past before it. -/
theorem runAfterInitForgetsThePast : Obligations.RunAfterInitForgetsThePast := by
  intro raw is s₁ s₂
  obtain ⟨t, ht⟩ := performAll_completes is (s := initialise raw State.reset) rfl
  have hrun (s : State) : performAll (.init raw :: is) s = .next (t.withPast s) := by
    refine performAll_cons_eq_next.2 ⟨_, exec_init raw s, ?_⟩
    rw [initialise_eq_withPast]
    exact performAll_withPast s ht
  refine ⟨_, _, t.readLog, t.captureLog, hrun s₁, hrun s₂, rfl, rfl, rfl, rfl, rfl, fun hreads hcaptures => ?_⟩
  simp only [State.observation, State.withPast, State.withOutputs, hreads, hcaptures]
  rfl

end Sys2Proof.Machine
end

section
/-! PROOFS. What the operations leave alone: the frames of RX and the reads, runs without their reads, and captures
against the registers they depend on (10_state.md section 5, 42_value_accessors.md rule R112). -/

namespace Sys2Proof.Machine

/-- An RX operation is the byte received, with or without a framing error. -/
theorem exists_receive_of_isRx {i : Instr} {s t : State} (hi : i.isRx = true) (h : exec i s = .next t) :
    ∃ ferr data, t = receive ferr data s ∧ (ferr = false → i = .rxDat data) := by
  obtain ⟨-, rfl⟩ := exec_eq_next.1 h
  cases i with
  | rxDat data => exact ⟨false, data, rfl, fun _ => rfl⟩
  | rxBrk data => exact ⟨true, data, rfl, fun h => nomatch h⟩
  | _ => cases hi

/-- A byte writes CapturedValue and its history only where it is the listened slot (rule R96). -/
theorem receive_captures_only_listened (ferr : Bool) (data : Byte) (s : State) :
    ((receive ferr data s).capturedValue = s.capturedValue ∧ (receive ferr data s).captureLog = s.captureLog) ∨
      (ferr = false ∧ s.listeningAddress ≠ Config.addrInvalid ∧ s.signalState = .receivingData ∧
        s.slotCounter + 1#16 = s.listeningAddress) := by
  obtain ⟨_, e⟩ | ⟨_, _, e⟩ | ⟨_, _, _, e⟩ | ⟨_, _, _, _, e⟩ | ⟨_, _, _, _, e⟩ | ⟨h, hferr, hq, hn, -⟩ | ⟨_, _, _, _, e⟩ :=
    receive_cases ferr data s
  case inr.inr.inr.inr.inr.inl => exact .inr ⟨hferr, h, hq, hn⟩
  all_goals exact .inl (by simp [e])

/-- Settles O35: RX is one byte received, whose frame and whose one capturing case are known. -/
theorem receivingFrame : Obligations.ReceivingFrame := by
  intro i s t hi h
  obtain ⟨ferr, data, rfl, hdat⟩ := exists_receive_of_isRx hi h
  obtain ⟨haddress, hindicator, hinit, hreads, hinputs⟩ := receive_frame ferr data s
  refine ⟨haddress, hindicator, hinit, hreads, hinputs, ?_⟩
  refine (receive_captures_only_listened ferr data s).imp_right fun ⟨hferr, ha, hq, hn⟩ => ?_
  exact ⟨data, hdat hferr, ha, hq, hn⟩

/-- Settles O27: neither a received byte nor a returned result writes the address or the indicator. -/
theorem addrValidChangesOnlyAtSwOrInit : Obligations.AddrValidChangesOnlyAtSwOrInit := by
  intro i s t hi h
  obtain hrx | hread := hi
  · obtain ⟨ferr, data, rfl, -⟩ := exists_receive_of_isRx hrx h
    obtain ⟨haddress, hindicator, -⟩ := receive_frame ferr data s
    exact ⟨hindicator, haddress⟩
  · obtain ⟨r, rfl⟩ := exec_read_eq_returnRead hread h
    exact ⟨rfl, rfl⟩

/-- Settles O48: a read's whole effect is one more result. -/
theorem readingFrame : Obligations.ReadingFrame := by
  intro i s t hi h
  obtain ⟨r, rfl⟩ := exec_read_eq_returnRead hi h
  exact ⟨rfl, rfl, rfl, rfl, r, rfl⟩

/-- No operation but a read touches the results read. -/
theorem effectOf_withReadLog {i : Instr} (hi : i.isRead = false) (s : State) (rs : List ReadResult) :
    effectOf i { s with readLog := rs } = { effectOf i s with readLog := rs } := by
  cases i with
  | rxDat data => exact receive_withReadLog false data s rs
  | rxBrk data => exact receive_withReadLog true data s rs
  | sw raw => rfl
  | init raw => rfl
  | _ => cases hi

/-- The run without its reads goes on from any list of results and leaves that list as it is. -/
theorem performAll_without_reads {is : List Instr} {s t : State} (rs : List ReadResult)
    (h : performAll is s = .next t) :
    performAll (is.filter fun i => !i.isRead) { s with readLog := rs } = .next { t with readLog := rs } := by
  induction is generalizing s with
  | nil => cases h; rfl
  | cons i is ih =>
    obtain ⟨u, hu, hrest⟩ := performAll_cons_eq_next.1 h
    cases hi : i.isRead
    case true =>
      obtain ⟨r, rfl⟩ := exec_read_eq_returnRead hi hu
      rw [List.filter_cons_of_neg (by simp [hi])]
      exact ih (s := s.returnRead r) hrest
    case false =>
      obtain ⟨hperformed, rfl⟩ := exec_eq_next.1 hu
      rw [List.filter_cons_of_pos (by simp [hi])]
      exact performAll_cons_eq_next.2
        ⟨_, exec_eq_next.2 ⟨hperformed, effectOf_withReadLog hi s rs⟩, ih hrest⟩

/-- Settles O49: the run's own first list of results is such a list. -/
theorem runIsTheSameWithoutItsReads : Obligations.RunIsTheSameWithoutItsReads :=
  fun _ s _ h => performAll_without_reads s.readLog h

/-- From `s` and `t` on the same bytes were captured, and the states agree on what later captures depend on. -/
def CaptureAlike (s t s' t' : State) : Prop :=
  SameFrameState s' t' ∧ ∃ cs, s'.captureLog = s.captureLog ++ cs ∧ t'.captureLog = t.captureLog ++ cs

theorem CaptureAlike.sameFrameState {s t s' t' : State} (h : CaptureAlike s t s' t') : SameFrameState s' t' :=
  h.left

theorem CaptureAlike.of_unchanged {s t s' t' : State} (hframe : SameFrameState s' t')
    (hs : s'.captureLog = s.captureLog) (ht : t'.captureLog = t.captureLog) : CaptureAlike s t s' t' :=
  ⟨hframe, [], by simp [hs], by simp [ht]⟩

theorem CaptureAlike.trans {s t s' t' s'' t'' : State} (h : CaptureAlike s t s' t')
    (h' : CaptureAlike s' t' s'' t'') : CaptureAlike s t s'' t'' := by
  obtain ⟨-, cs, hs, ht⟩ := h
  obtain ⟨hframe, ds, hs', ht'⟩ := h'
  exact ⟨hframe, cs ++ ds, by rw [hs', hs, List.append_assoc], by rw [ht', ht, List.append_assoc]⟩

theorem SameFrameState.eq_withOutputs {s t : State} (h : SameFrameState s t) :
    t = s.withOutputs t.capturedValue t.readLog t.captureLog t.inputs := by
  obtain ⟨ha, hi, hq, hn, hinit⟩ := h
  rw [State.withOutputs, ha, hi, hq, hn, hinit]

theorem receive_captureAlike (ferr : Bool) (data : Byte) {s t : State} (h : SameFrameState s t) :
    CaptureAlike s t (receive ferr data s) (receive ferr data t) := by
  obtain ⟨ds, hout⟩ := receive_withOutputs ferr data s
  have hs := hout s.capturedValue s.readLog s.captureLog s.inputs
  have ht := hout t.capturedValue t.readLog t.captureLog t.inputs
  rw [← h.eq_withOutputs] at ht
  have hframe : SameFrameState (receive ferr data s) (receive ferr data t) := ht ▸ ⟨rfl, rfl, rfl, rfl, rfl⟩
  exact ⟨hframe, ds, congrArg State.captureLog hs, congrArg State.captureLog ht⟩

theorem effectOf_captureAlike (i : Instr) {s t : State} (h : SameFrameState s t) :
    CaptureAlike s t (effectOf i s) (effectOf i t) := by
  cases i with
  | rxDat data => exact receive_captureAlike false data h
  | rxBrk data => exact receive_captureAlike true data h
  | sw raw =>
    obtain ⟨-, -, hq, hn, hinit⟩ := h
    exact .of_unchanged ⟨rfl, rfl, hq, hn, hinit⟩ rfl rfl
  | rdValue => exact .of_unchanged h rfl rfl
  | rdValid => exact .of_unchanged h rfl rfl
  | init raw => exact .of_unchanged ⟨rfl, rfl, rfl, rfl, rfl⟩ rfl rfl

/-- Settles O41: each operation does to two such states the same but for the outputs. -/
theorem capturesIgnoreTheCapturedValue : Obligations.CapturesIgnoreTheCapturedValue := by
  intro is
  induction is with
  | nil =>
    intro s t s' t' h hs ht
    cases hs
    cases ht
    exact CaptureAlike.of_unchanged h rfl rfl
  | cons i is ih =>
    intro s t s' t' h hs ht
    obtain ⟨u, hu, hs⟩ := performAll_cons_eq_next.1 hs
    obtain ⟨v, hv, ht⟩ := performAll_cons_eq_next.1 ht
    obtain ⟨-, rfl⟩ := exec_eq_next.1 hu
    obtain ⟨-, rfl⟩ := exec_eq_next.1 hv
    have hfirst := effectOf_captureAlike i h
    exact hfirst.trans (ih _ _ _ _ hfirst.sameFrameState hs ht)

end Sys2Proof.Machine
end

section
/-! PROOFS. A run of bytes in ReceivingData: the count goes on to the listened slot, which ends it
(41_frame_synchronizer.md rules R96, R99 and R100, 70_reset_and_hazards.md rules R144 to R146). -/

namespace Sys2Proof.Machine

/-- From `s` on nothing was captured, or one byte, and then the state waits for a break. -/
def CapturedAtMostOnce (s t : State) : Prop :=
  t.captureLog = s.captureLog ∨ ∃ d, t.captureLog = s.captureLog ++ [d] ∧ t.signalState = .waitingForBreak

/-- An operation other than a break captures nothing and goes on waiting if it did, or ends the frame by a capture. -/
theorem effectOf_capture_cases {i : Instr} (hi : i.isBreak = false) (s : State) :
    ((effectOf i s).captureLog = s.captureLog ∧
      (s.signalState = .waitingForBreak → (effectOf i s).signalState = .waitingForBreak)) ∨
    (s.signalState = .receivingData ∧ (effectOf i s).signalState = .waitingForBreak ∧
      ∃ d, (effectOf i s).captureLog = s.captureLog ++ [d]) := by
  cases i with
  | rxDat data =>
    obtain ⟨_, e⟩ | ⟨_, hferr, _⟩ | ⟨_, _, _, e⟩ | ⟨_, _, hq, _, e⟩ | ⟨_, _, hq, _, e⟩ | ⟨_, _, hq, _, e⟩ |
      ⟨_, _, hq, _, e⟩ := receive_cases false data s
    case inr.inl => cases hferr
    case inr.inr.inr.inr.inr.inl => exact .inr ⟨hq, by simp [effectOf, e], data, by simp [effectOf, e]⟩
    all_goals exact .inl (by simp_all [effectOf])
  | rxBrk data => cases hi
  | sw raw => exact .inl ⟨rfl, id⟩
  | rdValue => exact .inl ⟨rfl, id⟩
  | rdValid => exact .inl ⟨rfl, id⟩
  | init raw => exact .inl ⟨rfl, fun _ => rfl⟩

/-- Settles O38: after the one capture the state waits, and only a break ends that. -/
theorem atMostOneCaptureWithoutABreak : Obligations.AtMostOneCaptureWithoutABreak := by
  intro is s t his h
  have honce : CapturedAtMostOnce s t := by
    refine performAll_invariant (P := CapturedAtMostOnce s) (fun i hi u v hu huv => ?_) (.inl rfl) h
    obtain ⟨-, rfl⟩ := exec_eq_next.1 huv
    obtain ⟨hlog, hwaits⟩ | ⟨hq, hq', d, hlog⟩ := effectOf_capture_cases (his i hi) u
    · exact hu.imp hlog.trans fun ⟨d, hd, hq⟩ => ⟨d, hlog.trans hd, hwaits hq⟩
    · obtain hnone | ⟨_, _, hwaiting⟩ := hu
      · exact .inr ⟨d, by rw [hlog, hnone], hq'⟩
      · rw [hq] at hwaiting
        cases hwaiting
  obtain hlog | ⟨d, hlog, -⟩ := honce
  · exact ⟨[], by simp [hlog], by simp⟩
  · exact ⟨[d], hlog, by simp⟩

/-- Of two counts written only the later one shows. -/
@[simp] theorem State.setSlotCounter_setSlotCounter (s : State) (m n : SlotNumber) :
    (s.setSlotCounter m).setSlotCounter n = s.setSlotCounter n := rfl

/-- The next count as a number, modulo 2^16 (10_state.md rule R27). -/
theorem succ_eq_iff {n a : SlotNumber} : n + 1#16 = a ↔ (n.toNat + 1) % 65536 = a.toNat := by
  rw [← BitVec.toNat_inj, BitVec.toNat_add]
  rfl

/-- Settles O34: the count that is compared is the incremented one. -/
theorem slotIsCountedThenCapturedIfListened : Obligations.SlotIsCountedThenCapturedIfListened := by
  intro d s hinit ha hq
  refine ⟨fun h => ?_, fun h => ?_⟩
  · rw [exec_rxDat_capture d hinit ha hq (succ_eq_iff.2 h), succ_eq_iff.2 h]
    rfl
  · exact exec_rxDat_count d hinit ha hq (mt succ_eq_iff.1 h)

section ReceivingData

variable {s : State} (hinit : s.initialised = true) (ha : s.listeningAddress ≠ Config.addrInvalid)
  (hq : s.signalState = .receivingData)

include hinit ha hq

/-- Bytes before the listened slot are counted only, modulo 2^16. -/
theorem performAll_slots_count (ds : List Byte)
    (hmiss : ∀ k < ds.length, (s.slotCounter.toNat + k + 1) % 65536 ≠ s.listeningAddress.toNat) :
    performAll (slots ds) s =
      .next (s.setSlotCounter (BitVec.ofNat 16 (s.slotCounter.toNat + ds.length))) := by
  induction ds generalizing s with
  | nil =>
    rw [List.length_nil, Nat.add_zero, BitVec.ofNat_toNat, BitVec.setWidth_eq]
    rfl
  | cons d ds ih =>
    have hne : s.slotCounter + 1#16 ≠ s.listeningAddress :=
      mt succ_eq_iff.1 (by simpa using hmiss 0 (by simp))
    have hsucc : (s.slotCounter + 1#16).toNat = (s.slotCounter.toNat + 1) % 65536 := BitVec.toNat_add _ _
    have hrest := ih (s := s.setSlotCounter (s.slotCounter + 1#16)) hinit ha hq fun k hk => by
      have := hmiss (k + 1) (by simpa using hk)
      simp only [State.setSlotCounter_slotCounter, State.setSlotCounter_listeningAddress, hsucc]
      omega
    have hsum : BitVec.ofNat 16 ((s.slotCounter + 1#16).toNat + ds.length) =
        BitVec.ofNat 16 (s.slotCounter.toNat + (ds.length + 1)) := by
      apply BitVec.eq_of_toNat_eq
      rw [hsucc, BitVec.toNat_ofNat, BitVec.toNat_ofNat]
      omega
    rw [State.setSlotCounter_slotCounter, State.setSlotCounter_setSlotCounter, hsum] at hrest
    exact performAll_cons_eq_next.2 ⟨_, exec_rxDat_count d hinit ha hq hne, hrest⟩

/-- The byte that brings the count to the address is captured and ends the frame's tracking. -/
theorem performAll_slots_capture (ds : List Byte) (x : Byte)
    (hslot : s.slotCounter.toNat + ds.length + 1 = s.listeningAddress.toNat) :
    performAll (slots ds ++ [.rxDat x]) s =
      .next (((s.setSlotCounter s.listeningAddress).capture x).setSignal .waitingForBreak) := by
  have hbound := s.listeningAddress.isLt
  have hmiss : ∀ k < ds.length, (s.slotCounter.toNat + k + 1) % 65536 ≠ s.listeningAddress.toNat := by
    intro k hk
    omega
  have hlast : BitVec.ofNat 16 (s.slotCounter.toNat + ds.length) + 1#16 = s.listeningAddress := by
    apply BitVec.eq_of_toNat_eq
    simp only [BitVec.toNat_add, BitVec.toNat_ofNat]
    omega
  refine performAll_append_eq_next.2 ⟨_, performAll_slots_count hinit ha hq ds hmiss, ?_⟩
  rw [performAll_singleton]
  have hcapture := exec_rxDat_capture
    (s := s.setSlotCounter (BitVec.ofNat 16 (s.slotCounter.toNat + ds.length))) x hinit ha hq hlast
  rw [State.setSlotCounter_slotCounter, hlast] at hcapture
  exact hcapture

end ReceivingData

/-- A break and the start code begin a frame from every SignalState (41_frame_synchronizer.md rules R92 and R94). -/
theorem performAll_break_startCode {s : State} (hinit : s.initialised = true)
    (ha : s.listeningAddress ≠ Config.addrInvalid) (b : Byte) :
    performAll [.rxBrk b, .rxDat Config.startCode] s =
      .next ((s.setSignal .receivingData).setSlotCounter 0#16) :=
  performAll_breaks_append_singleton hinit ha b []
    (exec_rxDat_startCode (s := s.setSignal .breakDetected) hinit ha rfl)

/-- Settles O37: the break and the start code write SignalState and the count, whatever they were. -/
theorem breakAndStartCodeHeal : Obligations.BreakAndStartCodeHeal :=
  fun b _ hinit ha => performAll_break_startCode hinit ha b

/-- Settles O39: the break and the start code set the count to 0, A - 1 bytes bring it next to A, `x` is captured,
and the bytes after it are those of a state that waits for a break. -/
theorem frameCapturesTheListenedSlotOnce : Obligations.FrameCapturesTheListenedSlotOnce := by
  intro b x before after s hinit hlen
  have ha : s.listeningAddress ≠ Config.addrInvalid := by
    intro h
    simp [h, Config.addrInvalid] at hlen
  have hcapture := performAll_slots_capture (s := (s.setSignal .receivingData).setSlotCounter 0#16) hinit ha rfl
    before x (by simpa using hlen)
  have hafter := performAll_slots_waiting (s := ((((s.setSignal .receivingData).setSlotCounter 0#16).setSlotCounter
    s.listeningAddress).capture x).setSignal .waitingForBreak) hinit ha after rfl
  rw [List.append_assoc _ (slots before)]
  exact performAll_append_eq_next.2
    ⟨_, performAll_append_eq_next.2 ⟨_, performAll_break_startCode hinit ha b, hcapture⟩, hafter⟩

section ChangedAddress

variable {raw : Raw10} {s : State} (h1 : 1 ≤ 1023 - raw.toNat) (h2 : 1023 - raw.toNat ≤ 512)

include h1 h2

theorem addressOf_toNat_of_valid : (addressOf raw).toNat = 1023 - raw.toNat := by
  rw [addressOf_of_valid h1 h2, BitVec.toNat_ofNat]
  omega

theorem addressOf_ne_addrInvalid : addressOf raw ≠ Config.addrInvalid := by
  rw [addressOf_of_valid h1 h2]
  exact ofNat_ne_addrInvalid h1 h2

end ChangedAddress

/-- Settles O42: SW keeps the count, from which the frame goes on to the new address. -/
theorem raisedAddressCapturesInThisFrame : Obligations.RaisedAddressCapturesInThisFrame := by
  intro raw before x s hinit hq h2 hslot
  have h1 : 1 ≤ 1023 - raw.toNat := by omega
  have hcapture := performAll_slots_capture (s := s.setAddress (addressOf raw)) hinit
    (addressOf_ne_addrInvalid h1 h2) hq before x (hslot.trans (addressOf_toNat_of_valid h1 h2).symm)
  rw [setAddress_addressOf_of_valid h1 h2] at hcapture
  exact performAll_cons_eq_next.2
    ⟨_, exec_sw_eq_next.2 ⟨hinit, setAddress_addressOf_of_valid h1 h2 s⟩, hcapture⟩

/-- Settles O43: from a count at or past the new address the next count equal to it is 2^16 further on. -/
theorem loweredAddressMissesThisFrame : Obligations.LoweredAddressMissesThisFrame := by
  intro raw ds s hinit hq h1 h2 hpassed hlen
  have haddress := addressOf_toNat_of_valid h1 h2
  have hmiss : ∀ k < ds.length, (s.slotCounter.toNat + k + 1) % 65536 ≠ (addressOf raw).toNat := by
    intro k hk
    have hcount := s.slotCounter.isLt
    omega
  have hcounted := performAll_slots_count (s := s.setAddress (addressOf raw)) hinit
    (addressOf_ne_addrInvalid h1 h2) hq ds hmiss
  rw [setAddress_addressOf_of_valid h1 h2] at hcounted
  exact performAll_cons_eq_next.2
    ⟨_, exec_sw_eq_next.2 ⟨hinit, setAddress_addressOf_of_valid h1 h2 s⟩, hcounted⟩

/-- Settles O44: at the invalid address SignalState and the count stay as they were, so the address set after it is
one raised above that count (R144 (a), `raisedAddressCapturesInThisFrame`). -/
theorem resumedFrameCountsFromTheStaleSlot : Obligations.ResumedFrameCountsFromTheStaleSlot := by
  intro off on ignored before x s hinit hq hoff hignored h2 hslot
  have hshed : performAll ignored (s.setAddress (addressOf off)) = .next (s.setAddress (addressOf off)) :=
    performAll_rx_eq_self_of_invalid hinit (addressOf_of_invalid hoff) hignored
  have hresumed := raisedAddressCapturesInThisFrame on before x (s.setAddress (addressOf off)) hinit hq h2 hslot
  rw [List.append_assoc, List.append_assoc, List.cons_append]
  exact performAll_cons_eq_next.2
    ⟨_, exec_sw_eq_next.2 ⟨hinit, rfl⟩, performAll_append_eq_next.2 ⟨_, hshed, hresumed⟩⟩

/-- Settles O23: two bytes are counted at address 3, then SW sets address 1. -/
theorem slotCounterMayPassTheAddress : Obligations.SlotCounterMayPassTheAddress :=
  ⟨[.sw 0x3FC, .rxBrk 0x00, .rxDat 0x00, .rxDat 0x11, .rxDat 0x22, .sw 0x3FE], _, rfl, rfl, by decide, by decide⟩

/-- Settles O45: INIT alone against INIT and a frame whose listened slot 1 holds 0x00. -/
theorem valueOutCannotTellZeroFromNoCapture : Obligations.ValueOutCannotTellZeroFromNoCapture :=
  ⟨0x3FE, [], [.rxBrk 0x00, .rxDat 0x00, .rxDat 0x00], _, _, by decide, by decide, rfl, rfl, rfl, rfl, rfl⟩

end Sys2Proof.Machine
end
